-- ==== Sys2Proof/Word.lean ====
section
/-! DEFINITION. The words of the Upzeta 418, its numbered things, and fixed-length tables. -/

namespace Sys2Proof

/-- One byte on the wire (R199). -/
abbrev Byte := BitVec 8

/-- A timebase value: one tick is one period of CLKIN (R1). -/
abbrev Tick := BitVec 48

/-- A 32-bit value: positions, counts, sequence numbers, notice details. -/
abbrev Word := BitVec 32

/-- A 16-bit value: fault tallies, generations, missed counts, arm limits. -/
abbrev Half := BitVec 16

/-- A master port, P0 to P3 (R178). -/
abbrev Port := Fin 4

/-- A channel, C0 to C7. -/
abbrev Chan := Fin 8

/-- A claim resource: 0 to 7 for C0 to C7, 8 for DEV (R96). -/
abbrev Resource := Fin 9

/-- A snapshot slot, 0 to 23 (R135). -/
abbrev SlotIdx := Fin 24

/-- A capture line, CAP0 or CAP1 (R16). -/
abbrev CapIdx := Fin 2

/-- The entry of a table at an index. -/
def tget {α : Type} {n : Nat} (v : Vector α n) (i : Fin n) : α := v[i.val]

/-- A table with one entry replaced. -/
def tset {α : Type} {n : Nat} (v : Vector α n) (i : Fin n) (x : α) : Vector α n :=
  v.set i.val x i.isLt

/-- A table with every entry changed by a function of its index and its value. -/
def tmap {α β : Type} {n : Nat} (v : Vector α n) (f : Fin n → α → β) : Vector β n :=
  Vector.ofFn fun i => f i (tget v i)

end Sys2Proof
end

