-- ==== Sys2Proof/Syntax.lean ====
section
/-! DEFINITION. The commands and events of the 418: one constructor for each row of spec/opcode_table.json. -/

namespace Sys2Proof

/-- A line level (00_scope, Conventions). -/
inductive Level where
  | low
  | high
  deriving DecidableEq, Repr

/-- The levels of the three lines A, B, Z of one channel. -/
structure Levels where
  a : Level
  b : Level
  z : Level
  deriving DecidableEq, Repr

/-- One sample: the lines whose conditioners are sampled together because they make one report (R11), with
the levels seen. A channel's three lines make one report; each capture line is a unit of its own (R16). -/
inductive Sample where
  | chan (c : Chan) (levels : Levels)
  | cap (n : CapIdx) (level : Level)
  deriving DecidableEq, Repr

/-- The levels at the pins at the tick at which a power-on or RESET pin reset ends (R18, R197). -/
structure PinLevels where
  chan : Vector Levels 8
  cap : Vector Level 2
  select : Vector Level 4
  deriving DecidableEq, Repr

/-- The 39 rows of spec/opcode_table.json. A frame ends with one of the rows `emptyFrame` to `deviceReset`.
In `readFrame` to `deviceReset`, `rest` holds the whole bytes of the frame after its first byte, as received:
for a command frame the tag byte, the length byte, the payload, the CRC and any fill, or as many of them as
the master clocked (R180, R199). Bits of an incomplete byte are no byte of the frame (R179). -/
inductive Instr where
  | powerOn
  | powerOnIntervalEnd (resetPin : Level) (pins : PinLevels)
  | resetPinAssert
  | resetPinRelease (pins : PinLevels)
  | lineSample (u : Sample)
  | filteredEdge (u : Sample)
  | overrangeExpiry (c : Chan)
  | leaseExpiry (r : Resource)
  | armLimitExpiry (i : SlotIdx)
  | timeTargetReached (t : Tick)
  | frameStart (p : Port)
  | emptyFrame (p : Port)
  | abandonedFrameEnd (p : Port)
  | readFrame (p : Port) (rest : List Byte)
  | unknownCommand (p : Port) (code : Byte) (rest : List Byte)
  | ping (p : Port) (rest : List Byte)
  | identify (p : Port) (rest : List Byte)
  | claim (p : Port) (rest : List Byte)
  | release (p : Port) (rest : List Byte)
  | setChannel (p : Port) (rest : List Byte)
  | getChannel (p : Port) (rest : List Byte)
  | setDevice (p : Port) (rest : List Byte)
  | getDevice (p : Port) (rest : List Byte)
  | setPort (p : Port) (rest : List Byte)
  | preset (p : Port) (rest : List Byte)
  | home (p : Port) (rest : List Byte)
  | homeCancel (p : Port) (rest : List Byte)
  | readChannel (p : Port) (rest : List Byte)
  | take (p : Port) (rest : List Byte)
  | peekView (p : Port) (rest : List Byte)
  | setView (p : Port) (rest : List Byte)
  | drain (p : Port) (rest : List Byte)
  | snapArm (p : Port) (rest : List Byte)
  | snapRead (p : Port) (rest : List Byte)
  | snapDiscard (p : Port) (rest : List Byte)
  | snapList (p : Port) (rest : List Byte)
  | fetch (p : Port) (rest : List Byte)
  | portReset (p : Port) (rest : List Byte)
  | deviceReset (p : Port) (rest : List Byte)
  deriving DecidableEq, Repr

end Sys2Proof
end

