-- ==== Sys2Proof/Machine/State.lean ====
section
/-! DEFINITION. The state of the 418, block by block, and its value right after a device reset. -/

namespace Sys2Proof.Machine

open Sys2Proof

/-! ### Settings (R117, R131) -/

/-- Channel modes (R117). -/
inductive Mode where
  | off
  | quad
  | tally
  | span
  | width
  deriving DecidableEq, Repr

/-- QUAD resolution (R24). -/
inductive Resolution where
  | x1
  | x2
  | x4
  deriving DecidableEq, Repr

/-- TALLY edge selection (R44). -/
inductive TallyEdge where
  | rise
  | fall
  | both
  deriving DecidableEq, Repr

/-- TALLY gate setting (R44). -/
inductive Gate where
  | none
  | high
  | low
  deriving DecidableEq, Repr

/-- SPAN edge selection (R49). -/
inductive SpanEdge where
  | rise
  | fall
  deriving DecidableEq, Repr

/-- Edge selection of a capture line (R16). -/
inductive CapEdge where
  | off
  | rise
  | fall
  | both
  deriving DecidableEq, Repr

/-- The filtered levels of A and B, written AB (R19). -/
structure AB where
  a : Level
  b : Level
  deriving DecidableEq, Repr

/-- A channel settings record: eleven fields (R117). An index quadrant of `none` is NONE. -/
structure ChanSettings where
  mode : Mode
  filterStep : Fin 8
  resolution : Resolution
  invert : Bool
  tallyEdge : TallyEdge
  gate : Gate
  spanEdge : SpanEdge
  widthLevel : Level
  indexQuadrant : Option AB
  indexPolarity : Level
  homeValue : Word
  deriving DecidableEq, Repr

/-- The defaults of R117. -/
def ChanSettings.default : ChanSettings :=
  { mode := .off, filterStep := 3, resolution := .x4, invert := false, tallyEdge := .rise, gate := .none,
    spanEdge := .rise, widthLevel := .high, indexQuadrant := Option.none, indexPolarity := .high,
    homeValue := 0 }

/-- The device settings record: five fields (R131). -/
structure DeviceSettings where
  leasePeriod : Byte
  quota : Byte
  capEdge : Vector CapEdge 2
  lineFilterStep : Fin 8
  deriving DecidableEq, Repr

/-- The defaults of R131. -/
def DeviceSettings.default : DeviceSettings :=
  { leasePeriod := 50, quota := 6, capEdge := Vector.replicate 2 .off, lineFilterStep := 3 }

/-! ### Line conditioners (R6) -/

/-- One line conditioner (R6). -/
structure Conditioner where
  raw : Level
  filtered : Level
  count : Nat
  deriving DecidableEq, Repr

/-- The three conditioners of a channel, and the model's mark that they have been sampled at the present
tick (R6: once on every tick; log entry 2). -/
structure ChanLines where
  a : Conditioner
  b : Conditioner
  z : Conditioner
  sampled : Bool
  deriving DecidableEq, Repr

/-- The conditioner of a capture line, with the same mark. -/
structure CapConditioner where
  line : Conditioner
  sampled : Bool
  deriving DecidableEq, Repr

/-! ### Channel engines (R19, R41) -/

/-- The mode state of a channel engine (R19, R41). The measurement start stands in the two states in which
R41 says it is present; the overrange wait runs in exactly those states and falls due 2^32-1 ticks after
the start (R48). -/
inductive ModeState where
  | none
  | quad (ab : AB)
  | gateOpen
  | gateClosed
  | waitFirst
  | timing (start : Tick)
  | waitInactive
  | waitActive
  | inPulse (start : Tick)
  deriving DecidableEq, Repr

/-- One channel engine (R19, R41). -/
structure Engine where
  modeState : ModeState
  position : Word
  runningCount : Word
  indexCond : Bool
  referenced : Bool
  homingArmed : Bool
  faultTally : Half
  generation : Half
  deriving DecidableEq, Repr

/-- A channel engine after device reset (R59). -/
def Engine.reset : Engine :=
  { modeState := .none, position := 0, runningCount := 0, indexCond := false, referenced := false,
    homingArmed := false, faultTally := 0, generation := 0 }

/-! ### Measurement rings (R60, R61) -/

/-- The kinds of ring entry (R61). -/
inductive EntryKind where
  | period
  | width
  | index
  deriving DecidableEq, Repr

/-- A ring entry (R61). -/
structure RingEntry where
  seq : Word
  kind : EntryKind
  value : Word
  timestamp : Tick
  overrange : Bool
  homing : Bool
  deriving DecidableEq, Repr

/-- A channel's measurement ring: its entries, oldest first, and the next sequence number (R60). -/
structure Ring where
  entries : List RingEntry
  next : Word
  deriving DecidableEq, Repr

/-- A ring after device reset (R74). -/
def Ring.reset : Ring := { entries := [], next := 0 }

/-! ### Views (R75) -/

/-- A window state (R88). -/
inductive WindowState where
  | below
  | inside
  | above
  deriving DecidableEq, Repr

/-- A view record (R75, R63). Bit k of `subs` is set when the notice kind of code k is in the subscription
set (R200). -/
structure View where
  eventDelta : Word
  eventSat : Bool
  faultDelta : Half
  faultSat : Bool
  since : Tick
  eventThreshold : Word
  eventAbove : Bool
  faultThreshold : Half
  faultAbove : Bool
  windowOn : Bool
  low : Word
  high : Word
  windowState : Option WindowState
  subs : BitVec 7
  cursor : Word
  missed : Half
  overrun : Bool
  deriving DecidableEq, Repr

/-- The defaults of R94, with the tick of the zeroing and the ring cursor given. -/
def View.fresh (since : Tick) (cursor : Word) : View :=
  { eventDelta := 0, eventSat := false, faultDelta := 0, faultSat := false, since := since,
    eventThreshold := 0, eventAbove := false, faultThreshold := 0, faultAbove := false, windowOn := false,
    low := 0, high := 0, windowState := none, subs := 0, cursor := cursor, missed := 0, overrun := false }

/-! ### Claims (R96) -/

/-- A resource record (R96). `leaseDue` is the tick at which a running lease falls due (R5, R103). -/
structure Claim where
  holder : Option Port
  waiters : List Port
  leaseDue : Option Tick
  deriving DecidableEq, Repr

/-- A resource after device reset (R116). -/
def Claim.free : Claim := { holder := none, waiters := [], leaseDue := none }

/-! ### Snapshots (R135) -/

/-- The source of a snapshot (R135). -/
inductive SnapSource where
  | immediate
  | line (n : CapIdx)
  | index (c : Chan)
  | time (target : Tick)
  deriving DecidableEq, Repr

/-- The reason of an expiry (R135). -/
inductive ExpiryReason where
  | timeout
  | sourceLost
  deriving DecidableEq, Repr

/-- One entry of a captured snapshot (R144). -/
structure SnapEntry where
  channel : Chan
  mode : Mode
  generation : Half
  levels : Levels
  primary : Option Word
  seq : Option Word
  faultTally : Half
  referenced : Bool
  noMeasurement : Bool
  overrange : Bool
  staleConfig : Bool
  deriving DecidableEq, Repr

/-- What a slot holds by its state ARMED, CAPTURED or EXPIRED (R135). In ARMED, `stale` lists the listed
channels whose stale mark is set, and `limitDue` is the tick at which a running arm-limit wait falls due.
The time-target wait of an ARMED TIME snapshot falls due at its target. -/
inductive SnapPhase where
  | armed (stale : List Chan) (limitDue : Option Tick)
  | captured (time : Tick) (entries : List SnapEntry)
  | expired (reason : ExpiryReason)
  deriving DecidableEq, Repr

/-- The fields of a slot that is not FREE (R135). -/
structure Snapshot where
  owner : Port
  channels : List Chan
  source : SnapSource
  armTime : Tick
  armLimit : Half
  late : Bool
  phase : SnapPhase
  deriving DecidableEq, Repr

/-- A slot record: FREE when it has no body (R135). -/
structure Slot where
  generation : Byte
  body : Option Snapshot
  deriving DecidableEq, Repr

/-- A slot after device reset (R160). -/
def Slot.reset : Slot := { generation := 0, body := none }

/-! ### Notices (R161, R163) -/

/-- The twelve notice kinds (R161). -/
inductive NoticeKind where
  | threshold
  | faultThreshold
  | window
  | homed
  | referenceLost
  | ringOverrun
  | reconfigured
  | claimGranted
  | claimRevoked
  | snapshotReady
  | snapshotExpired
  | loss
  deriving DecidableEq, Repr

/-- What a notice names (R161). -/
inductive NoticeSource where
  | channel (c : Chan)
  | resource (r : Resource)
  | handle (slot : SlotIdx) (generation : Byte)
  | zero
  deriving DecidableEq, Repr

/-- A notice (R161). -/
structure Notice where
  kind : NoticeKind
  source : NoticeSource
  time : Tick
  value : Word
  aux : Word
  deriving DecidableEq, Repr

/-- A port's notice queue, oldest notice first, with its loss accounting (R163). -/
structure Queue where
  notices : List Notice
  lost : Byte
  lossPending : Bool
  deriving DecidableEq, Repr

/-- A queue after device reset (R177). -/
def Queue.reset : Queue := { notices := [], lost := 0, lossPending := false }

/-! ### Port interfaces (R178) -/

/-- The receiver state of a port (R178). -/
inductive Receiver where
  | idle
  | receiving
  | abandoned
  deriving DecidableEq, Repr

/-- Response codes (R203). -/
inductive RespCode where
  | ok
  | granted
  | queued
  | held
  | withdrawn
  | resetDone
  | badCrc
  | badLength
  | unknownCommand
  | badArgument
  | notClaimed
  | busy
  | notHeld
  | wrongMode
  | quota
  | storeFull
  | unknownSnapshot
  | notOwner
  | notReady
  deriving DecidableEq, Repr

/-- A response as the slot holds it; its length byte and CRC follow from it (R181, R187). -/
structure Response where
  code : RespCode
  tag : BitVec 4
  payload : List Byte
  deriving DecidableEq, Repr

/-- One port interface (R178). `frameBytes` and `wholeBytes` are those of the frame in progress, or of the last
one; `bits` holds the bits received of the byte in progress, and `shifted` the number of falling clock edges since
the frame began, each of which moves data-out to the next bit (R179, R206); `status` and `presented` are the
frame-start record. `selSampled` is the model's mark that a start or an end of a frame has been sampled on the
select line at the present tick (R179: once on every tick; log entry 19). -/
structure PortIf where
  recv : Receiver
  selSampled : Bool
  frameBytes : List Byte
  wholeBytes : Byte
  bits : List Level
  shifted : Nat
  status : Byte
  presented : Option Response
  slot : Option Response
  collided : Bool
  resetSeen : Bool
  deriving DecidableEq, Repr

/-- A port interface at the end of a power-on or RESET pin reset with its select at HIGH level (R197, R198).
The frame-start record has no reset value in the spec: DESIGN CHOICE, log entry 9. The select has been sampled
at the tick of the reset's end (R197; log entry 19). -/
def PortIf.reset : PortIf :=
  { recv := .idle, selSampled := true, frameBytes := [], wholeBytes := 0, bits := [], shifted := 0, status := 0
    presented := none, slot := none, collided := false, resetSeen := true }

/-! ### The whole machine -/

/-- Which of the periods of R2 the device is in: running; in the power-on interval, with the number of ticks since
the supply came within its range and CLKIN ran; or in a reset that lasts until RESET is sampled HIGH. -/
inductive ResetPhase where
  | running
  | powerOnInterval (elapsed : Nat)
  | pinHeld
  deriving DecidableEq, Repr

/-- An edge of a port's SPI clock: the port samples data-in on a rising one and changes data-out on a falling one
(R179). -/
inductive ClockEdge where
  | rise (dataIn : Level)
  | fall
  deriving DecidableEq, Repr

/-- The state of the 418. `resetLow` is the number of consecutive ticks, counted to 16, at which RESET has been
sampled LOW (R2). The last four fields are the model's own: the levels of RESET at the ticks to come (log entry 21);
the edges of each port's clock in the ticks to come, in order (log entry 20); the counter of the free values (log entry 3); the queue of waiting commands (log entry 1). -/
structure State where
  phase : ResetPhase
  resetLow : Nat
  now : Tick
  lines : Vector ChanLines 8
  caps : Vector CapConditioner 2
  engines : Vector Engine 8
  rings : Vector Ring 8
  views : Vector (Vector View 8) 4
  claims : Vector Claim 9
  settings : Vector ChanSettings 8
  device : DeviceSettings
  wake : Vector (BitVec 12) 4
  slots : Vector Slot 24
  held : Vector Nat 4
  queues : Vector Queue 4
  intLine : Vector Level 4
  ports : Vector PortIf 4
  resetWire : List Level
  wires : Vector (List (List ClockEdge)) 4
  freeCount : Nat
  pending : List Instr
  deriving DecidableEq, Repr

/-- Why the block would stop with a fault. The spec gives the 418 no such event: every refused command is
answered by a response code (R203), so nothing raises a fault and the type has no constructor (safe). -/
inductive Fault where
  deriving DecidableEq, Repr

/-- Why the model refuses a command. -/
inductive Refusal where
  /-- Raised by `exec` alone, for a row that has no meaning yet; no arm raises it now. Safe. -/
  | notModelled (mnemonic : String)
  /-- Raised by UNKNOWN_COMMAND when its code is 0x00 or the code of a command: such a term spells no row
  of the table (R189, R203). Safe: nothing is claimed of it. -/
  | illFormed
  deriving DecidableEq, Repr

/-- A conditioner whose line was sampled at LOW level at the end of reset (R18). The level is the pin's:
DESIGN CHOICE LOW, log entry 8. -/
def Conditioner.reset : Conditioner := { raw := .low, filtered := .low, count := 0 }

/-- The machine right after a power-on or RESET pin reset (R2, R18, R59, R74, R95, R116, R134, R160, R177,
R197), RESET just sampled HIGH, every input line at LOW level and every select at HIGH level (log entry 8). -/
def State.reset : State :=
  { phase := .running
    resetLow := 0
    now := 0
    lines := Vector.replicate 8
      { a := Conditioner.reset, b := Conditioner.reset, z := Conditioner.reset, sampled := true }
    caps := Vector.replicate 2 { line := Conditioner.reset, sampled := true }
    engines := Vector.replicate 8 Engine.reset
    rings := Vector.replicate 8 Ring.reset
    views := Vector.replicate 4 (Vector.replicate 8 (View.fresh 0 0))
    claims := Vector.replicate 9 Claim.free
    settings := Vector.replicate 8 ChanSettings.default
    device := DeviceSettings.default
    wake := Vector.replicate 4 0xFFF
    slots := Vector.replicate 24 Slot.reset
    held := Vector.replicate 4 0
    queues := Vector.replicate 4 Queue.reset
    intLine := Vector.replicate 4 .high
    ports := Vector.replicate 4 PortIf.reset
    resetWire := []
    wires := Vector.replicate 4 []
    freeCount := 0
    pending := [] }

end Sys2Proof.Machine
end

