-- ==== Sys2Proof/Machine/Operands.lean ====
section
/-! DEFINITION. How bytes spell values: the codes of R200 and R203, the payload lengths of R201, the CRC of
R187, reading payload fields, and writing the records of R204 and R205. -/

namespace Sys2Proof.Machine

open Sys2Proof

/-! ### Reading fields (R200: fixed byte positions, little-endian) -/

/-- The byte at a position of a payload. -/
def byteAt (bs : List Byte) (i : Nat) : Byte := bs.getD i 0

/-- A two-byte field. -/
def halfAt (bs : List Byte) (i : Nat) : Half := byteAt bs (i + 1) ++ byteAt bs i

/-- A four-byte field. -/
def wordAt (bs : List Byte) (i : Nat) : Word := halfAt bs (i + 2) ++ halfAt bs i

/-- A six-byte time. -/
def tickAt (bs : List Byte) (i : Nat) : Tick := halfAt bs (i + 4) ++ wordAt bs i

/-- A number below `n`, or none (R200). -/
def finOf (n : Nat) (b : Byte) : Option (Fin n) :=
  if h : b.toNat < n then some ⟨b.toNat, h⟩ else none

/-- A yes-no byte (R200). -/
def boolOf (b : Byte) : Option Bool :=
  if b = 0 then some false else if b = 1 then some true else none

/-- Mode codes (R200). -/
def modeOf (b : Byte) : Option Mode :=
  match b.toNat with
  | 0 => some .off
  | 1 => some .quad
  | 2 => some .tally
  | 3 => some .span
  | 4 => some .width
  | _ => none

/-- Resolution codes (R200). -/
def resolutionOf (b : Byte) : Option Resolution :=
  match b.toNat with
  | 0 => some .x1
  | 1 => some .x2
  | 2 => some .x4
  | _ => none

/-- Tally edge codes (R200). -/
def tallyEdgeOf (b : Byte) : Option TallyEdge :=
  match b.toNat with
  | 0 => some .rise
  | 1 => some .fall
  | 2 => some .both
  | _ => none

/-- Gate codes (R200). -/
def gateOf (b : Byte) : Option Gate :=
  match b.toNat with
  | 0 => some .none
  | 1 => some .high
  | 2 => some .low
  | _ => none

/-- Span edge codes (R200). -/
def spanEdgeOf (b : Byte) : Option SpanEdge :=
  match b.toNat with
  | 0 => some .rise
  | 1 => some .fall
  | _ => none

/-- Capture-line edge codes (R200). -/
def capEdgeOf (b : Byte) : Option CapEdge :=
  match b.toNat with
  | 0 => some .off
  | 1 => some .rise
  | 2 => some .fall
  | 3 => some .both
  | _ => none

/-- Level codes: width level, index polarity (R200). -/
def levelOf (b : Byte) : Option Level :=
  match b.toNat with
  | 0 => some .low
  | 1 => some .high
  | _ => none

/-- Index quadrant codes; the inner none is NONE (R200). -/
def quadrantOf (b : Byte) : Option (Option AB) :=
  match b.toNat with
  | 0 => some (some ⟨.low, .low⟩)
  | 1 => some (some ⟨.low, .high⟩)
  | 2 => some (some ⟨.high, .low⟩)
  | 3 => some (some ⟨.high, .high⟩)
  | 4 => some none
  | _ => none

/-- The channel settings record of 14 bytes from position `i` on; none where a field is outside its values
(R119, R204). -/
def chanSettingsAt (bs : List Byte) (i : Nat) : Option ChanSettings := do
  let mode ← modeOf (byteAt bs i)
  let filterStep ← finOf 8 (byteAt bs (i + 1))
  let resolution ← resolutionOf (byteAt bs (i + 2))
  let invert ← boolOf (byteAt bs (i + 3))
  let tallyEdge ← tallyEdgeOf (byteAt bs (i + 4))
  let gate ← gateOf (byteAt bs (i + 5))
  let spanEdge ← spanEdgeOf (byteAt bs (i + 6))
  let widthLevel ← levelOf (byteAt bs (i + 7))
  let indexQuadrant ← quadrantOf (byteAt bs (i + 8))
  let indexPolarity ← levelOf (byteAt bs (i + 9))
  return { mode, filterStep, resolution, invert, tallyEdge, gate, spanEdge, widthLevel, indexQuadrant,
           indexPolarity, homeValue := wordAt bs (i + 10) }

/-- The device settings record of 5 bytes; none where a field is outside its values (R132, R204). -/
def deviceSettingsAt (bs : List Byte) (i : Nat) : Option DeviceSettings :=
  let quota := byteAt bs (i + 1)
  if 1 ≤ quota.toNat ∧ quota.toNat ≤ 24 then do
    let cap0 ← capEdgeOf (byteAt bs (i + 2))
    let cap1 ← capEdgeOf (byteAt bs (i + 3))
    let lineFilterStep ← finOf 8 (byteAt bs (i + 4))
    return { leasePeriod := byteAt bs i, quota, capEdge := #v[cap0, cap1], lineFilterStep }
  else none

/-- Whether channel numbers stand in strictly ascending order (R138). -/
def ascending : List Chan → Bool
  | c :: d :: rest => decide (c < d) && ascending (d :: rest)
  | _ => true

/-- The channel numbers of a list of bytes; none where one is above 7. -/
def chansOf : List Byte → Option (List Chan)
  | [] => some []
  | b :: bs =>
    match finOf 8 b, chansOf bs with
    | some c, some cs => some (c :: cs)
    | _, _ => none

/-- The channel list of a SNAP_ARM payload: a count of 1 to 8, then that many channel bytes in strictly
ascending order (R138). -/
def chanListOf (pl : List Byte) : Option (List Chan) :=
  let n := (byteAt pl 0).toNat
  if 1 ≤ n ∧ n ≤ 8 then
    match chansOf ((pl.drop 1).take n) with
    | some cs => if ascending cs then some cs else none
    | none => none
  else none

/-! ### Writing values (R200, R202) -/

/-- A two-byte field, little-endian. -/
def le2 (x : Half) : List Byte := [x.extractLsb' 0 8, x.extractLsb' 8 8]

/-- A four-byte field, little-endian. -/
def le4 (x : Word) : List Byte :=
  [x.extractLsb' 0 8, x.extractLsb' 8 8, x.extractLsb' 16 8, x.extractLsb' 24 8]

/-- A six-byte time, little-endian. -/
def le6 (x : Tick) : List Byte :=
  [x.extractLsb' 0 8, x.extractLsb' 8 8, x.extractLsb' 16 8, x.extractLsb' 24 8, x.extractLsb' 32 8,
   x.extractLsb' 40 8]

/-- The byte of a small number. -/
def byteOf (n : Nat) : Byte := BitVec.ofNat 8 n

/-- A yes-no byte (R200). -/
def yesNo (b : Bool) : Byte := if b then 1 else 0

/-- Level codes (R200). -/
def Level.code : Level → Byte
  | .low => 0
  | .high => 1

/-- Mode codes (R200). -/
def Mode.code : Mode → Byte
  | .off => 0
  | .quad => 1
  | .tally => 2
  | .span => 3
  | .width => 4

/-- Resolution codes (R200). -/
def Resolution.code : Resolution → Byte
  | .x1 => 0
  | .x2 => 1
  | .x4 => 2

/-- Tally edge codes (R200). -/
def TallyEdge.code : TallyEdge → Byte
  | .rise => 0
  | .fall => 1
  | .both => 2

/-- Gate codes (R200). -/
def Gate.code : Gate → Byte
  | .none => 0
  | .high => 1
  | .low => 2

/-- Span edge codes (R200). -/
def SpanEdge.code : SpanEdge → Byte
  | .rise => 0
  | .fall => 1

/-- Capture-line edge codes (R200). -/
def CapEdge.code : CapEdge → Byte
  | .off => 0
  | .rise => 1
  | .fall => 2
  | .both => 3

/-- An AB state as an index quadrant code (R200). -/
def AB.code (q : AB) : Byte := 2 * Level.code q.a + Level.code q.b

/-- Index quadrant codes (R200). -/
def quadrantCode : Option AB → Byte
  | some q => AB.code q
  | none => 4

/-- Mode state codes, read with the mode (R200). -/
def ModeState.code : ModeState → Byte
  | .none => 0
  | .quad ab => AB.code ab
  | .gateOpen => 1
  | .gateClosed => 0
  | .waitFirst => 0
  | .timing _ => 1
  | .waitInactive => 0
  | .waitActive => 1
  | .inPulse _ => 2

/-- Ring entry kind codes (R200). -/
def EntryKind.code : EntryKind → Byte
  | .period => 0
  | .width => 1
  | .index => 2

/-- Window state codes; 0xFF where the state is absent (R200). -/
def windowCode : Option WindowState → Byte
  | some .below => 0
  | some .inside => 1
  | some .above => 2
  | none => 0xFF

/-- Notice kind codes (R200). -/
def NoticeKind.code : NoticeKind → Nat
  | .threshold => 0
  | .faultThreshold => 1
  | .window => 2
  | .homed => 3
  | .referenceLost => 4
  | .ringOverrun => 5
  | .reconfigured => 6
  | .claimGranted => 7
  | .claimRevoked => 8
  | .snapshotReady => 9
  | .snapshotExpired => 10
  | .loss => 11

/-- Response codes (R203). -/
def RespCode.code : RespCode → Byte
  | .ok => 0x00
  | .granted => 0x01
  | .queued => 0x02
  | .held => 0x03
  | .withdrawn => 0x04
  | .resetDone => 0x05
  | .badCrc => 0x80
  | .badLength => 0x81
  | .unknownCommand => 0x82
  | .badArgument => 0x83
  | .notClaimed => 0x90
  | .busy => 0x91
  | .notHeld => 0x92
  | .wrongMode => 0x93
  | .quota => 0xA0
  | .storeFull => 0xA1
  | .unknownSnapshot => 0xA2
  | .notOwner => 0xA3
  | .notReady => 0xA4

/-- A port number byte; 0xFF for none (R200). -/
def portCode : Option Port → Byte
  | some p => byteOf p.val
  | none => 0xFF

/-- The expiry reason byte (R205). -/
def ExpiryReason.code : ExpiryReason → Nat
  | .timeout => 1
  | .sourceLost => 2

/-- Snapshot source codes (R200). -/
def SnapSource.code : SnapSource → Nat
  | .immediate => 0
  | .line _ => 1
  | .index _ => 2
  | .time _ => 3

/-- Snapshot state codes (R200). -/
def SnapPhase.code : SnapPhase → Nat
  | .armed _ _ => 1
  | .captured _ _ => 2
  | .expired _ => 3

/-! ### Records (R204, R205) -/

/-- The channel settings record, 14 bytes (R204). -/
def chanSettingsBytes (r : ChanSettings) : List Byte :=
  [Mode.code r.mode, byteOf r.filterStep.val, Resolution.code r.resolution, yesNo r.invert,
   TallyEdge.code r.tallyEdge, Gate.code r.gate, SpanEdge.code r.spanEdge, Level.code r.widthLevel,
   quadrantCode r.indexQuadrant, Level.code r.indexPolarity] ++ le4 r.homeValue

/-- The device settings record, 5 bytes (R204). -/
def deviceSettingsBytes (d : DeviceSettings) : List Byte :=
  [d.leasePeriod, d.quota, CapEdge.code (tget d.capEdge 0), CapEdge.code (tget d.capEdge 1),
   byteOf d.lineFilterStep.val]

/-- The ring entry, 16 bytes (R204). -/
def ringEntryBytes (e : RingEntry) : List Byte :=
  le4 e.seq ++ [EntryKind.code e.kind, yesNo e.overrange + 2 * yesNo e.homing] ++ le4 e.value
    ++ le6 e.timestamp

/-- The source of a notice, 2 bytes (R204). -/
def noticeSourceBytes : NoticeSource → List Byte
  | .channel c => [byteOf c.val, 0]
  | .resource r => [byteOf r.val, 0]
  | .handle i g => [byteOf i.val, g]
  | .zero => [0, 0]

/-- The notice, 17 bytes (R204). -/
def noticeBytes (n : Notice) : List Byte :=
  [byteOf n.kind.code] ++ noticeSourceBytes n.source ++ le6 n.time ++ le4 n.value ++ le4 n.aux

/-- The packed aux of a WINDOW notice: the old state in the first byte, the new in the second (R204). -/
def windowAux (old new : Option WindowState) : Word :=
  (0 : Half) ++ (windowCode new ++ windowCode old : Half)

/-- The packed aux of a RECONFIGURED notice (R204). -/
def reconfiguredAux (faultDelta : Half) (unread : Word) (eventSat faultSat : Bool) (old new : Mode) : Word :=
  let byte15 : Byte := unread.setWidth 5 |>.setWidth 8
  let byte15 := byte15 ||| (if eventSat then 0x20 else 0) ||| (if faultSat then 0x40 else 0)
  let byte16 : Byte := Mode.code old ||| (Mode.code new <<< 4)
  (byte16 ++ byte15 : Half) ++ faultDelta

/-- The entry code of R205: the mode joined with the marks that belong to it. -/
def snapEntryCode (e : SnapEntry) : Byte :=
  match e.mode with
  | .off => 0
  | .quad => if e.referenced then 2 else 1
  | .tally => 3
  | .span => if e.noMeasurement then 6 else if e.overrange then 5 else 4
  | .width => if e.noMeasurement then 9 else if e.overrange then 8 else 7

/-- The entry of a captured snapshot, 13 bytes (R205). -/
def snapEntryBytes (e : SnapEntry) : List Byte :=
  [snapEntryCode e ||| (Level.code e.levels.a <<< 4) ||| (Level.code e.levels.b <<< 5)
    ||| (Level.code e.levels.z <<< 6) ||| (yesNo e.staleConfig <<< 7)]
    ++ le2 e.generation ++ le2 e.faultTally ++ le4 (e.primary.getD 0) ++ le4 (e.seq.getD 0)

/-- The source line or source channel of byte 2 of a record head (R205). -/
def SnapSource.arg : SnapSource → Nat
  | .line n => n.val
  | .index c => c.val
  | _ => 0

/-- The target of a record head: zero unless the source is TIME (R205). -/
def SnapSource.target : SnapSource → Tick
  | .time t => t
  | _ => 0

/-- The channel list as a mask, bit n for Cn (R205). -/
def chanMask (cs : List Chan) : Byte :=
  cs.foldl (fun m c => m ||| (1 <<< c.val)) 0

/-- The head of a snapshot record, 18 bytes (R205). -/
def snapHead (i : SlotIdx) (g : Byte) (sn : Snapshot) : List Byte :=
  [byteOf i.val, g,
   byteOf (SnapPhase.code sn.phase) ||| (byteOf (SnapSource.code sn.source) <<< 2)
     ||| (byteOf (SnapSource.arg sn.source) <<< 4) ||| (yesNo sn.late <<< 7),
   chanMask sn.channels] ++ le6 sn.armTime ++ le2 sn.armLimit ++ le6 (SnapSource.target sn.source)

/-- The snapshot record of a CAPTURED or EXPIRED slot (R205). -/
def snapRecord (i : SlotIdx) (g : Byte) (sn : Snapshot) : List Byte :=
  match sn.phase with
  | .armed _ _ => snapHead i g sn
  | .captured t es => snapHead i g sn ++ le6 t ++ (es.map snapEntryBytes).flatten
  | .expired r => snapHead i g sn ++ [byteOf r.code]

/-! ### Frames: the CRC (R187), command codes (R203) and payload lengths (R201) -/

/-- One shift of the CRC, generator x^8 + x^2 + x + 1 (R187). -/
def crcShift (c : Byte) : Byte :=
  if c.msb then (c <<< 1) ^^^ 0x07 else c <<< 1

/-- The CRC after one more byte: exclusive-or with the byte, then eight shifts (R187). -/
def crcByte (c b : Byte) : Byte :=
  crcShift (crcShift (crcShift (crcShift (crcShift (crcShift (crcShift (crcShift (c ^^^ b))))))))

/-- The CRC of a sequence of bytes from the initial value 0xFF (R187). -/
def crc8 (bs : List Byte) : Byte := bs.foldl crcByte 0xFF

/-- Whether a byte is one of the command codes of R203. -/
def isCommandCode (code : Byte) : Bool :=
  match code.toNat with
  | 0x01 | 0x02 | 0x10 | 0x11 | 0x20 | 0x21 | 0x22 | 0x23 | 0x24 | 0x30 | 0x31 | 0x32 | 0x33 | 0x40 | 0x41
  | 0x42 | 0x43 | 0x50 | 0x51 | 0x52 | 0x53 | 0x60 | 0x70 | 0x71 => true
  | _ => false

/-- Whether a command accepts a payload length; a code that is not a command code accepts every length
(R186, R201, section 11.4). -/
def acceptsLength (code : Byte) (n : Nat) : Bool :=
  match code.toNat with
  | 0x01 => decide (n ≤ 24)
  | 0x02 => n == 0
  | 0x10 => n == 2
  | 0x11 => n == 1
  | 0x20 => n == 15
  | 0x21 => n == 1
  | 0x22 => n == 5
  | 0x23 => n == 0
  | 0x24 => n == 2
  | 0x30 => n == 5
  | 0x31 => n == 1
  | 0x32 => n == 1
  | 0x33 => n == 1
  | 0x40 => n == 1
  | 0x41 => n == 1
  | 0x42 => n == 17
  | 0x43 => n == 2
  | 0x50 => n == 19
  | 0x51 => n == 2
  | 0x52 => n == 2
  | 0x53 => n == 0
  | 0x60 => n == 1
  | 0x70 => n == 0
  | 0x71 => n == 0
  | _ => true

/-- The bytes of a command frame after its code: tag byte, length, payload, CRC and fill (R180, R199). The
CRC covers the code, the tag byte, the length byte and the payload (R187). -/
def frameRest (code tagByte : Byte) (payload fill : List Byte) : List Byte :=
  tagByte :: byteOf payload.length :: payload
    ++ crc8 (code :: tagByte :: byteOf payload.length :: payload) :: fill

/-- A response as it is clocked out: code, tag byte, length, payload and CRC (R181, R199). -/
def responseBytes (r : Response) : List Byte :=
  let body := RespCode.code r.code :: r.tag.setWidth 8 :: byteOf r.payload.length :: r.payload
  body ++ [crc8 body]

end Sys2Proof.Machine
end

