-- ==== Sys2Proof/WellFormed.lean ====
section
/-! DEFINITION. Which terms of Instr spell a row of the table. Port, channel, resource and slot numbers are
bounded by their types, and a frame may carry any bytes (a short or damaged frame is refused by the port
itself, R186), so one check is left. -/

namespace Sys2Proof

/-- A code that is no command code and not the 0x00 of a READ frame (R180, R189, R203). -/
def isUnknownCode (code : Byte) : Bool := code != 0 && !Machine.isCommandCode code

/-- The well-formed commands: an UNKNOWN_COMMAND carries a code that is no command (R189). -/
def Instr.wellFormed : Instr → Bool
  | .unknownCommand _ code _ => isUnknownCode code
  | _ => true

end Sys2Proof
end

