-- ==== Sys2Proof/Decode.lean ====
section
/-! DEFINITION. From bits to commands. The opcode table gives none of its rows bits, so no word spells a
command. What does spell one is a frame: its first byte names the row (R180, R203). -/

namespace Sys2Proof

/-- The command a table word spells. No row of spec/opcode_table.json has bits: none, for every word
(log entry 14). -/
def decodeTableWord (_nbits _w : Nat) : Option Instr := none

/-- The row that the end of a frame is, by the whole bytes of the frame: no byte is an empty frame (R179),
0x00 a READ frame, a command code its command, any other code an unknown command (R180, R203). -/
def decodeFrame (p : Port) : List Byte → Instr
  | [] => .emptyFrame p
  | code :: rest =>
    match code.toNat with
    | 0x00 => .readFrame p rest
    | 0x01 => .ping p rest
    | 0x02 => .identify p rest
    | 0x10 => .claim p rest
    | 0x11 => .release p rest
    | 0x20 => .setChannel p rest
    | 0x21 => .getChannel p rest
    | 0x22 => .setDevice p rest
    | 0x23 => .getDevice p rest
    | 0x24 => .setPort p rest
    | 0x30 => .preset p rest
    | 0x31 => .home p rest
    | 0x32 => .homeCancel p rest
    | 0x33 => .readChannel p rest
    | 0x40 => .take p rest
    | 0x41 => .peekView p rest
    | 0x42 => .setView p rest
    | 0x43 => .drain p rest
    | 0x50 => .snapArm p rest
    | 0x51 => .snapRead p rest
    | 0x52 => .snapDiscard p rest
    | 0x53 => .snapList p rest
    | 0x60 => .fetch p rest
    | 0x70 => .portReset p rest
    | 0x71 => .deviceReset p rest
    | _ => .unknownCommand p code rest

/-- The port and the whole bytes of the frame that a frame-ending row stands for (R179, R180, R203). -/
def frameOf : Instr → Option (Port × List Byte)
  | .emptyFrame p => some (p, [])
  | .readFrame p rest => some (p, 0x00 :: rest)
  | .unknownCommand p code rest => some (p, code :: rest)
  | .ping p rest => some (p, 0x01 :: rest)
  | .identify p rest => some (p, 0x02 :: rest)
  | .claim p rest => some (p, 0x10 :: rest)
  | .release p rest => some (p, 0x11 :: rest)
  | .setChannel p rest => some (p, 0x20 :: rest)
  | .getChannel p rest => some (p, 0x21 :: rest)
  | .setDevice p rest => some (p, 0x22 :: rest)
  | .getDevice p rest => some (p, 0x23 :: rest)
  | .setPort p rest => some (p, 0x24 :: rest)
  | .preset p rest => some (p, 0x30 :: rest)
  | .home p rest => some (p, 0x31 :: rest)
  | .homeCancel p rest => some (p, 0x32 :: rest)
  | .readChannel p rest => some (p, 0x33 :: rest)
  | .take p rest => some (p, 0x40 :: rest)
  | .peekView p rest => some (p, 0x41 :: rest)
  | .setView p rest => some (p, 0x42 :: rest)
  | .drain p rest => some (p, 0x43 :: rest)
  | .snapArm p rest => some (p, 0x50 :: rest)
  | .snapRead p rest => some (p, 0x51 :: rest)
  | .snapDiscard p rest => some (p, 0x52 :: rest)
  | .snapList p rest => some (p, 0x53 :: rest)
  | .fetch p rest => some (p, 0x60 :: rest)
  | .portReset p rest => some (p, 0x70 :: rest)
  | .deviceReset p rest => some (p, 0x71 :: rest)
  | .powerOn => none
  | .powerOnIntervalEnd _ _ => none
  | .resetPinAssert => none
  | .resetPinRelease _ => none
  | .lineSample _ => none
  | .filteredEdge _ => none
  | .overrangeExpiry _ => none
  | .leaseExpiry _ => none
  | .armLimitExpiry _ => none
  | .timeTargetReached _ => none
  | .frameStart _ => none
  | .abandonedFrameEnd _ => none

end Sys2Proof
end

