-- ==== Sys2Proof/Config.lean ====
section
/-! DEFINITION. What the spec leaves open and no choice of the model fixes: one source of free values.
The 418 has no implementation constants beside the numbers the spec states, which stand with the
operations that use them (Sys2Proof/Machine). -/

namespace Sys2Proof

/-- A free value: nothing constrains it. Applied to `State.freeCount`, which each use advances, it decides
what the spec leaves to either order: the order of the events that one tick brings by itself (R97, R147,
R165), and whether a lease that falls due at a frame's end expires before the frame's activity (R97, R112).
Log entries 3 and 4. -/
opaque Config.pick : Nat → Nat

end Sys2Proof
end

