-- ==== Sys2Proof/Machine/Flags.lean ====
section
/-! DEFINITION. Marks packed into bytes (section 11.4, R199), saturating counts, and the level of an
interrupt line (R171). -/

namespace Sys2Proof.Machine

open Sys2Proof

/-- One more, stopping at the largest value (R13, R65, R164). -/
def satInc {w : Nat} (x : BitVec w) : BitVec w :=
  if x = BitVec.allOnes w then x else x + 1

/-- Mark bits from bit 0 upward. -/
def markBits : List Bool → Byte
  | [] => 0
  | b :: bs => (markBits bs <<< 1) ||| yesNo b

/-- The status byte: RST in bit 7, COLL in bit 6, RESP in bit 5, the notice count in bits 4 to 0
(R182, R199). -/
def statusByte (port : PortIf) (notices : Nat) : Byte :=
  (yesNo port.resetSeen <<< 7) ||| (yesNo port.collided <<< 6) ||| (yesNo port.slot.isSome <<< 5)
    ||| ((byteOf notices) &&& 0x1F)

/-- RST as a status byte shows it (R199). -/
def statusShowsReset (b : Byte) : Bool := b.getLsbD 7

/-- COLL as a status byte shows it (R199). -/
def statusShowsCollided (b : Byte) : Bool := b.getLsbD 6

/-- The line levels byte of READ_CHANNEL: A in bit 0, B in bit 1, Z in bit 2 (section 11.4). -/
def levelsByte (l : Levels) : Byte :=
  markBits [l.a == .high, l.b == .high, l.z == .high]

/-- The marks byte of READ_CHANNEL (section 11.4). -/
def engineMarks (e : Engine) : Byte := markBits [e.referenced, e.homingArmed]

/-- The marks byte of TAKE (section 11.4). -/
def takeMarks (v : View) : Byte := markBits [v.eventSat, v.faultSat]

/-- The marks byte of PEEK_VIEW (section 11.4). -/
def peekMarks (v : View) : Byte :=
  markBits [v.eventSat, v.faultSat, v.eventAbove, v.faultAbove, v.windowOn, v.overrun]

/-- The marks byte of SET_VIEW (section 11.4). -/
def aboveMarks (v : View) : Byte := markBits [v.eventAbove, v.faultAbove]

/-- Whether a notice kind is a member of a subscription set or wake set (R200). -/
def hasKind {w : Nat} (set : BitVec w) (k : NoticeKind) : Bool := set.getLsbD k.code

/-- The level of an interrupt line: LOW exactly when a notice of a wake kind is held (R171). -/
def lineLevel (notices : List Notice) (wake : BitVec 12) : Level :=
  if notices.any (fun n => hasKind wake n.kind) then .low else .high

/-- The window state of a position: a signed comparison with low and high (R88). -/
def windowStateOf (low high p : Word) : WindowState :=
  if p.slt low then .below else if high.slt p then .above else .inside

end Sys2Proof.Machine
end

