-- ==== Sys2Proof/Machine/Ops.lean ====
section
/-! DEFINITION. The named operations every event is made of: access to each table of State, timed waits,
the notice queues, the views' counting, the measurement ring, the snapshot store's captures and expiries, and
the claim table's leases and passes. -/

namespace Sys2Proof.Machine

open Sys2Proof

/-! ### Access -/

def State.chanLines (s : State) (c : Chan) : ChanLines := tget s.lines c
def State.setChanLines (s : State) (c : Chan) (x : ChanLines) : State :=
  { s with lines := tset s.lines c x }

def State.cap (s : State) (n : CapIdx) : CapConditioner := tget s.caps n
def State.setCap (s : State) (n : CapIdx) (x : CapConditioner) : State :=
  { s with caps := tset s.caps n x }

def State.engine (s : State) (c : Chan) : Engine := tget s.engines c
def State.setEngine (s : State) (c : Chan) (x : Engine) : State :=
  { s with engines := tset s.engines c x }

def State.ring (s : State) (c : Chan) : Ring := tget s.rings c
def State.setRing (s : State) (c : Chan) (x : Ring) : State :=
  { s with rings := tset s.rings c x }

def State.view (s : State) (p : Port) (c : Chan) : View := tget (tget s.views p) c
def State.setView (s : State) (p : Port) (c : Chan) (x : View) : State :=
  { s with views := tset s.views p (tset (tget s.views p) c x) }

def State.claim (s : State) (r : Resource) : Claim := tget s.claims r
def State.setClaim (s : State) (r : Resource) (x : Claim) : State :=
  { s with claims := tset s.claims r x }

def State.chanSettings (s : State) (c : Chan) : ChanSettings := tget s.settings c
def State.setChanSettings (s : State) (c : Chan) (x : ChanSettings) : State :=
  { s with settings := tset s.settings c x }

def State.setDevice (s : State) (x : DeviceSettings) : State := { s with device := x }

def State.wakeSet (s : State) (p : Port) : BitVec 12 := tget s.wake p
def State.setWakeSet (s : State) (p : Port) (x : BitVec 12) : State :=
  { s with wake := tset s.wake p x }

def State.slot (s : State) (i : SlotIdx) : Slot := tget s.slots i
def State.setSlot (s : State) (i : SlotIdx) (x : Slot) : State :=
  { s with slots := tset s.slots i x }

def State.heldCount (s : State) (p : Port) : Nat := tget s.held p
def State.setHeldCount (s : State) (p : Port) (x : Nat) : State :=
  { s with held := tset s.held p x }

def State.queue (s : State) (p : Port) : Queue := tget s.queues p
def State.setQueue (s : State) (p : Port) (x : Queue) : State :=
  { s with queues := tset s.queues p x }

def State.intLevel (s : State) (p : Port) : Level := tget s.intLine p
def State.setIntLevel (s : State) (p : Port) (x : Level) : State :=
  { s with intLine := tset s.intLine p x }

def State.port (s : State) (p : Port) : PortIf := tget s.ports p
def State.setPort (s : State) (p : Port) (x : PortIf) : State :=
  { s with ports := tset s.ports p x }

/-- The device takes events: it is in no power-on or RESET pin reset (R2, R197). -/
abbrev State.running (s : State) : Prop := s.phase = .running

/-- One action for each port, P0 first. -/
def forPorts (f : Port → State → State) (s : State) : State := f 3 (f 2 (f 1 (f 0 s)))

/-- One action for each slot, in ascending slot order. -/
def forSlots (f : SlotIdx → State → State) (s : State) : State :=
  (List.finRange 24).foldl (fun s i => f i s) s

/-- One action for each resource, in resource order. -/
def forResources (f : Resource → State → State) (s : State) : State :=
  (List.finRange 9).foldl (fun s r => f r s) s

/-- One action for each channel, in channel order. -/
def forChans (f : Chan → State → State) (s : State) : State :=
  (List.finRange 8).foldl (fun s c => f c s) s

/-- The levels of a channel's filtered lines. -/
def filteredLevels (l : ChanLines) : Levels := ⟨l.a.filtered, l.b.filtered, l.z.filtered⟩

/-- The filtered levels of A and B. -/
def filteredAB (l : ChanLines) : AB := ⟨l.a.filtered, l.b.filtered⟩

/-! ### Timed waits (R4, R5) -/

/-- The tick at which a wait of `n` ticks started now falls due (R5). -/
def State.dueIn (s : State) (n : Nat) : Tick := s.now + BitVec.ofNat 48 n

/-- A target is passed when now - T modulo 2^48 is less than 2^47 (R4). -/
def targetPassed (now target : Tick) : Bool := decide ((now - target).toNat < 2 ^ 47)

/-- The consecutive ticks at which RESET is sampled LOW before a reset starts (R2). -/
abbrev resetPinTicks : Nat := 16

/-- The level of RESET at its last sample (R2). -/
def State.resetSampled (s : State) : Level := if s.resetLow = 0 then .high else .low

/-- The length of the power-on interval (R2). -/
abbrev powerOnTicks : Nat := 4096

/-- The overrange limit, 2^32-1 ticks (R5). -/
def overrangeTicks : Nat := 4294967295

/-- The lease that starts now under the lease period in force: 160,000 ticks a unit, none for period 0
(R5, R103). -/
def State.newLease (s : State) : Option Tick :=
  if s.device.leasePeriod = 0 then none else some (s.dueIn (s.device.leasePeriod.toNat * 160000))

/-- The arm-limit wait that starts now: 16,000 ticks a millisecond, none for limit 0 (R5, R140). -/
def State.newArmLimit (s : State) (limit : Half) : Option Tick :=
  if limit = 0 then none else some (s.dueIn (limit.toNat * 16000))

/-! ### Notice queues (R164, R171) -/

/-- The interrupt line of a port is evaluated again (R171). -/
def evalLine (p : Port) (s : State) : State :=
  s.setIntLevel p (lineLevel (s.queue p).notices (s.wakeSet p))

/-- A notice is handed to a port's queue: with 0 to 15 held it joins the tail, with 16 it is lost and
counted (R164). -/
def handNotice (p : Port) (n : Notice) (s : State) : State :=
  let q := s.queue p
  if q.notices.length < 16 then
    evalLine p (s.setQueue p { q with notices := q.notices ++ [n] })
  else
    s.setQueue p { q with lost := satInc q.lost, lossPending := true }

/-- A notice of a channel passes through the port's view of it: delivered if the subscription set holds its
kind, discarded otherwise (R90). -/
def deliver (p : Port) (c : Chan) (k : NoticeKind) (value aux : Word) (s : State) : State :=
  if hasKind (s.view p c).subs k then
    handNotice p { kind := k, source := .channel c, time := s.now, value, aux } s
  else s

/-! ### Views (R76 to R79, R88) -/

/-- A primary event in one view: the event delta grows or saturates, and may cross its threshold
(R76, R78). -/
def countPrimary (c : Chan) (p : Port) (s : State) : State :=
  let v := s.view p c
  if v.eventDelta = BitVec.allOnes 32 then s.setView p c { v with eventSat := true }
  else
    let d := v.eventDelta + 1
    if v.eventThreshold ≠ 0 ∧ v.eventAbove = false ∧ v.eventDelta ≤ v.eventThreshold ∧ v.eventThreshold < d then
      deliver p c .threshold d v.eventThreshold
        (s.setView p c { v with eventDelta := d, eventAbove := true })
    else s.setView p c { v with eventDelta := d }

/-- A primary event of a channel reaches all four views (R76). -/
def primaryEvent (c : Chan) (s : State) : State := forPorts (countPrimary c) s

/-- A fault event in one view (R77, R79). -/
def countFault (c : Chan) (p : Port) (s : State) : State :=
  let v := s.view p c
  if v.faultDelta = BitVec.allOnes 16 then s.setView p c { v with faultSat := true }
  else
    let d := v.faultDelta + 1
    if v.faultThreshold ≠ 0 ∧ v.faultAbove = false ∧ v.faultDelta ≤ v.faultThreshold ∧ v.faultThreshold < d then
      deliver p c .faultThreshold (d.setWidth 32) (v.faultThreshold.setWidth 32)
        (s.setView p c { v with faultDelta := d, faultAbove := true })
    else s.setView p c { v with faultDelta := d }

/-- A fault event of a channel: the fault tally grows or stays at 65,535, and the event is handed to all
four views (R13, R77). -/
def faultEvent (c : Chan) (s : State) : State :=
  let e := s.engine c
  forPorts (countFault c) (s.setEngine c { e with faultTally := satInc e.faultTally })

/-- A position change in one view: an enabled window takes the state of the new position, with a WINDOW
notice when the state changes (R88). -/
def windowEval (c : Chan) (p : Port) (s : State) : State :=
  let v := s.view p c
  let pos := (s.engine c).position
  if v.windowOn then
    let st := some (windowStateOf v.low v.high pos)
    if st = v.windowState then s
    else deliver p c .window pos (windowAux v.windowState st) (s.setView p c { v with windowState := st })
  else s

/-- The new position of a channel is handed to the view table (R88). -/
def positionChange (c : Chan) (s : State) : State := forPorts (windowEval c) s

/-- A notice of a channel for every view of it that subscribes (R34, R39, R90). -/
def noticeViews (c : Chan) (k : NoticeKind) (value aux : Word) (s : State) : State :=
  forPorts (fun p => deliver p c k value aux) s

/-- A zeroing of a view: both deltas 0, the saturated and above marks clear, since as given (R75). -/
def View.zeroed (v : View) (since : Tick) : View :=
  { v with eventDelta := 0, eventSat := false, faultDelta := 0, faultSat := false, eventAbove := false,
           faultAbove := false, since := since }

/-- The window state a view holds by its window and the channel: absent while the enable mark is clear or
the channel is not in QUAD (R86, R89). -/
def windowStateFor (v : View) (mode : Mode) (pos : Word) : Option WindowState :=
  if v.windowOn && mode == .quad then some (windowStateOf v.low v.high pos) else none

/-! ### The measurement ring (R64 to R66) -/

/-- The eviction of the entry with sequence number `seq` is charged to a port whose cursor stands on it
(R65, R66). -/
def chargeEviction (c : Chan) (seq : Word) (p : Port) (s : State) : State :=
  let v := s.view p c
  if v.cursor = seq then
    let m := satInc v.missed
    let s' := s.setView p c { v with cursor := seq + 1, missed := m, overrun := true }
    if v.overrun then s' else deliver p c .ringOverrun (seq + 1) (m.setWidth 32) s'
  else s

/-- Step 1 of a push: a full ring evicts its oldest entry (R64). -/
def evictOldest (c : Chan) (s : State) : State :=
  let r := s.ring c
  match r.entries with
  | [] => s
  | e :: es =>
    if 16 ≤ r.entries.length then
      forPorts (chargeEviction c e.seq) (s.setRing c { r with entries := es })
    else s

/-- A push, stamped now: eviction, then the new entry with the next sequence number, then the next sequence
number grows by 1 (R62, R64). -/
def pushEntry (c : Chan) (kind : EntryKind) (value : Word) (overrange homing : Bool) (s : State) : State :=
  let s := evictOldest c s
  let r := s.ring c
  s.setRing c
    { entries := r.entries ++ [{ seq := r.next, kind, value, timestamp := s.now, overrange, homing }],
      next := r.next + 1 }

/-- The unread count of a port: the next sequence number minus its cursor (R63). -/
def State.unread (s : State) (p : Port) (c : Chan) : Word := (s.ring c).next - (s.view p c).cursor

/-! ### The snapshot store: captures and expiries (R142 to R149) -/

/-- A capture event by what it serves (R142). A qualified index carries the engine of its channel as it
stood before the homing load (R31, R145). -/
inductive CaptureCause where
  | line (n : CapIdx)
  | index (c : Chan) (before : Engine)
  | target (t : Tick)
  deriving DecidableEq, Repr

/-- The engine a capture reads for a channel (R145). -/
def captureEngine (s : State) (before : Option (Chan × Engine)) (c : Chan) : Engine :=
  match before with
  | some (d, e) => if d = c then e else s.engine c
  | none => s.engine c

/-- The entry of one listed channel at a capture event (R144, R145). -/
def captureEntry (s : State) (before : Option (Chan × Engine)) (stale : List Chan) (c : Chan) : SnapEntry :=
  let e := captureEngine s before c
  let mode := (s.chanSettings c).mode
  let latest := (s.ring c).entries.getLast?
  let timed := mode == .span || mode == .width
  { channel := c
    mode := mode
    generation := e.generation
    levels := filteredLevels (s.chanLines c)
    primary :=
      match mode with
      | .off => none
      | .quad => some e.position
      | .tally => some e.runningCount
      | .span | .width => latest.map (·.value)
    seq := if timed then latest.map (·.seq) else none
    faultTally := e.faultTally
    referenced := mode == .quad && e.referenced
    noMeasurement := timed && latest.isNone
    overrange := timed && latest.any (·.overrange)
    staleConfig := decide (c ∈ stale) }

/-- The value of a SNAPSHOT_READY: 1 LINE, 2 INDEX, 3 TIME, 4 TIME with LATE (R146). -/
def readyValue (sn : Snapshot) : Word :=
  match sn.source with
  | .immediate => 0
  | .line _ => 1
  | .index _ => 2
  | .time _ => if sn.late then 4 else 3

/-- The capture of one ARMED snapshot within a capture event: waits stop, entries are filled, the state
becomes CAPTURED, and SNAPSHOT_READY goes to the owner unless the source is IMMEDIATE (R143, R146). -/
def captureSlot (before : Option (Chan × Engine)) (i : SlotIdx) (s : State) : State :=
  let slot := s.slot i
  match slot.body with
  | none => s
  | some sn =>
    match sn.phase with
    | .armed stale _ =>
      let s' := s.setSlot i
        { slot with body := some { sn with
            phase := .captured s.now (sn.channels.map (captureEntry s before stale)) } }
      if sn.source = .immediate then s'
      else handNotice sn.owner
        { kind := .snapshotReady, source := .handle i slot.generation, time := s.now, value := readyValue sn,
          aux := BitVec.ofNat 32 ((sn.channels.filter (fun c => decide (c ∈ stale))).length) } s'
    | _ => s

/-- Whether a capture event serves a snapshot by its source (R142). -/
def serves (cause : CaptureCause) (source : SnapSource) : Bool :=
  match cause, source with
  | .line n, .line m => n == m
  | .index c _, .index d => c == d
  | .target t, .time u => t == u
  | _, _ => false

/-- The snapshot in a slot, while it is ARMED. -/
def State.armedSnap (s : State) (i : SlotIdx) : Option Snapshot :=
  match (s.slot i).body with
  | some sn =>
    match sn.phase with
    | .armed _ _ => some sn
    | _ => none
  | none => none

/-- A capture event: every ARMED snapshot it serves is captured, in ascending slot order (R142, R143). -/
def captureEvent (cause : CaptureCause) (s : State) : State :=
  let before := match cause with
    | .index c e => some (c, e)
    | _ => none
  forSlots (fun i s =>
    if (s.armedSnap i).any (fun sn => serves cause sn.source) then captureSlot before i s else s) s

/-- An ARMED snapshot expires: waits and stale marks go, and SNAPSHOT_EXPIRED goes to the owner
(R147, R149). -/
def expireSlot (reason : ExpiryReason) (aux : Word) (i : SlotIdx) (s : State) : State :=
  let slot := s.slot i
  match s.armedSnap i with
  | none => s
  | some sn =>
    handNotice sn.owner
      { kind := .snapshotExpired, source := .handle i slot.generation, time := s.now,
        value := BitVec.ofNat 32 reason.code, aux }
      (s.setSlot i { slot with body := some { sn with phase := .expired reason } })

/-- Every ARMED INDEX snapshot on a channel loses its source, in ascending slot order (R149). -/
def loseIndexSource (c : Chan) (aux : Word) (s : State) : State :=
  forSlots (fun i s =>
    if (s.armedSnap i).any (fun sn => sn.source == .index c) then expireSlot .sourceLost aux i s else s) s

/-- The stale mark of a listed channel of an ARMED snapshot is set (R151). -/
def markStale (c : Chan) (i : SlotIdx) (s : State) : State :=
  let slot := s.slot i
  match slot.body with
  | none => s
  | some sn =>
    match sn.phase with
    | .armed stale due =>
      if c ∈ sn.channels then
        s.setSlot i { slot with body := some { sn with
          phase := .armed (sn.channels.filter (fun d => decide (d = c ∨ d ∈ stale))) due } }
      else s
    | _ => s

/-- A slot is freed: it loses every field but its generation, and its owner's held count falls by 1
(R137, R153). -/
def freeSlot (i : SlotIdx) (s : State) : State :=
  let slot := s.slot i
  match slot.body with
  | none => s
  | some sn =>
    (s.setSlot i { slot with body := none }).setHeldCount sn.owner (s.heldCount sn.owner - 1)

/-- The lowest-numbered FREE slot (R139). -/
def State.lowestFree (s : State) : Option SlotIdx :=
  (List.finRange 24).find? (fun i => (s.slot i).body.isNone)

/-! ### The claim table: passes, expiry, activity (R102 to R106) -/

/-- A pass: a resource whose holder has just been cleared goes to its oldest waiter, whose lease starts,
with a CLAIM_GRANTED notice; with no waiter it is left free (R102). -/
def pass (r : Resource) (cause : Word) (former : Port) (s : State) : State :=
  let cl := s.claim r
  match cl.waiters with
  | [] => s.setClaim r { cl with holder := none, leaseDue := none }
  | w :: ws =>
    handNotice w
      { kind := .claimGranted, source := .resource r, time := s.now, value := cause,
        aux := BitVec.ofNat 32 former.val }
      (s.setClaim r { holder := some w, waiters := ws, leaseDue := s.newLease })

/-- The expiry of the lease of a held resource: the holder is cleared, CLAIM_REVOKED goes to it, and the
resource passes with cause 2 (R106, R107). -/
def expireLease (r : Resource) (s : State) : State :=
  let cl := s.claim r
  match cl.holder with
  | none => s
  | some h =>
    pass r 2 h
      (handNotice h
        { kind := .claimRevoked, source := .resource r, time := s.now,
          value := s.device.leasePeriod.setWidth 32,
          aux := match cl.waiters with
            | [] => 0xFFFFFFFF
            | w :: _ => BitVec.ofNat 32 w.val }
        (s.setClaim r { cl with holder := none, leaseDue := none }))

/-- The lease of a held resource is restarted at full length from now, where the lease period is nonzero
(R104). -/
def restartLease (r : Resource) (s : State) : State :=
  if s.device.leasePeriod = 0 then s else s.setClaim r { s.claim r with leaseDue := s.newLease }

/-- The next free value, and the counter that gives it advances (log entry 3). -/
def State.nextFree (s : State) : State := { s with freeCount := s.freeCount + 1 }

/-- A port's activity at one resource (R104). The spec lets events of other ports and expiries fall between a
frame's command and its activity, and lets a lease that falls due at this very tick expire before the activity
or not (R97, R112). For such a lease a free value decides: either the activity restarts it, or it is left due,
and its expiry, which then comes before the activity, is taken where its LEASE_EXPIRY stands in the queue. A
lease that is not due now is restarted at once: nothing that may fall between the command and the activity
depends on whether it has been (log entry 4). -/
def renew (p : Port) (r : Resource) (s : State) : State :=
  let cl := s.claim r
  if cl.holder = some p then
    if cl.leaseDue = some s.now then
      if Config.pick s.freeCount % 2 = 0 then restartLease r s.nextFree else s.nextFree
    else restartLease r s
  else s

/-- The activity of a port: every lease it holds is restarted (R104), but for those whose expiry at this very
tick comes first (`renew`). The leases of a port are independent of each other here, so the order of the
resources shows nowhere. -/
def activity (p : Port) (s : State) : State := forResources (renew p) s

end Sys2Proof.Machine
end

