-- ==== Sys2Proof/Machine/Frames.lean ====
section
/-! DEFINITION. The port interface: the start and the end of a frame, the checks of a command frame, the
response slot, collision and activity (R179 to R191). -/

namespace Sys2Proof.Machine

open Sys2Proof

/-- What an executed command answers; the port adds the tag (R190). -/
structure Reply where
  code : RespCode
  payload : List Byte
  deriving DecidableEq, Repr

/-- A response is placed in a port's slot (R184). -/
def place (p : Port) (tag : BitVec 4) (r : Reply) (s : State) : State :=
  s.setPort p { s.port p with slot := some { code := r.code, tag := tag, payload := r.payload } }

/-- The collided mark is set (R188). -/
def collide (p : Port) (s : State) : State := s.setPort p { s.port p with collided := true }

/-- The number of whole bytes, counted to 255 and held there (R178). -/
def wholeCount (n : Nat) : Byte := BitVec.ofNat 8 (min n 255)

/-! ### Bits and bytes (R178, R179, R180) -/

/-- The bits of a byte as they move, most significant bit first (R179). -/
def bitsOf (b : Byte) : List Level :=
  (List.range 8).map fun k => if b.getLsbD (7 - k) then .high else .low

/-- The byte that received bits make, most significant bit first (R179). -/
def byteOfBits (bits : List Level) : Byte := bits.foldl (fun b l => (b <<< 1) ||| Level.code l) 0

/-- A whole byte joins the frame bytes, of which the first 28 are kept, and is counted to 255 (R178, R180). -/
def receiveByte (b : Byte) (pt : PortIf) : PortIf :=
  { pt with
    frameBytes := if pt.frameBytes.length < 28 then pt.frameBytes ++ [b] else pt.frameBytes
    wholeBytes := satInc pt.wholeBytes }

/-- A rising edge of the clock with data-in at a level. Eight make a whole byte (R179). Edges while select is
at HIGH level are ignored (R179), and so are the bytes of an abandoned frame (R196). -/
def receiveBit (v : Level) (pt : PortIf) : PortIf :=
  match pt.recv with
  | .receiving =>
    let bits := pt.bits ++ [v]
    if 8 ≤ bits.length then receiveByte (byteOfBits bits) { pt with bits := [] } else { pt with bits := bits }
  | _ => pt

/-- A falling edge of the clock: data-out moves to the next bit of the frame (R179, R206). Outside a frame that
counts data-out stays LOW (R196, R206). -/
def shiftOut (pt : PortIf) : PortIf :=
  match pt.recv with
  | .receiving => { pt with shifted := pt.shifted + 1 }
  | _ => pt

/-- An edge of a port's clock (R179). -/
def takeEdge (e : ClockEdge) (pt : PortIf) : PortIf :=
  match e with
  | .rise v => receiveBit v pt
  | .fall => shiftOut pt

/-- Whether the whole bytes of a frame begin with what a port has received of the frame in progress: its frame
bytes, its count, and the bits of the byte in progress, which are no byte of a frame that ends inside it
(R178, R179). -/
def hasReceived (pt : PortIf) (bytes : List Byte) : Bool :=
  let n := pt.wholeBytes.toNat
  decide (n ≤ bytes.length) && pt.frameBytes == (bytes.take n).take 28 &&
    (decide (n = 255) || decide (n = bytes.length) ||
      pt.bits == (bitsOf (bytes.getD n 0)).take pt.bits.length)

/-! ### The end of a frame -/

/-- Steps 1 and 2 of a frame's end: the port returns to IDLE, the marks the status byte showed are cleared,
and a response clocked out whole leaves the slot (R179, R183, R184, R185). The whole bytes that no clock edge
has brought yet are received with the end of the frame (log entry 7). -/
def endFramePort (bytes : List Byte) (pt : PortIf) : PortIf :=
  { pt with
    recv := .idle
    frameBytes := bytes.take 28
    wholeBytes := wholeCount bytes.length
    bits := []
    shifted := 0
    selSampled := true
    resetSeen := pt.resetSeen && !statusShowsReset pt.status
    collided := pt.collided && !statusShowsCollided pt.status
    slot :=
      match pt.presented with
      | some r => if 5 + r.payload.length ≤ bytes.length then none else pt.slot
      | none => pt.slot }

/-- The port after the first two steps of a frame's end (R185). -/
def frameEnded (p : Port) (bytes : List Byte) (s : State) : State :=
  s.setPort p (endFramePort bytes (s.port p))

/-- The end of an abandoned frame: the port returns to IDLE and does nothing else (R196). -/
def abandonedEnd (p : Port) (s : State) : State :=
  s.setPort p { s.port p with recv := .idle, selSampled := true }

/-- The end of a frame by the receiver state: in RECEIVING the given work, in ABANDONED the bare return to
IDLE (R196), in IDLE no frame is in progress and nothing happens. Nothing happens either where the select has
been sampled at this tick already, or where the frame's bytes do not begin with those received
(log entries 5, 7 and 19). During a power-on or RESET pin reset no event is taken (R197). -/
def atFrameEnd (p : Port) (bytes : List Byte) (work : State → State) (s : State) : State :=
  if s.running ∧ (s.port p).selSampled = false then
    match (s.port p).recv with
    | .receiving => if hasReceived (s.port p) bytes then work s else s
    | .abandoned => abandonedEnd p s
    | .idle => s
  else s

/-- The outcome of the checks of R186: a tag with the payload of a frame that passed, or an error response. -/
inductive FrameCheck where
  | pass (tag : BitVec 4) (payload : List Byte)
  | fail (tag : BitVec 4) (r : Reply)
  deriving DecidableEq, Repr

/-- The error response BAD_LENGTH (R186). -/
def badLength (code declared : Byte) (whole : Byte) : Reply :=
  { code := .badLength, payload := [code, declared, whole] }

/-- The three checks of a command frame, in order: frame length, CRC, payload length (R186). `rest` holds
the whole bytes after the code. -/
def checkFrame (code : Byte) (rest : List Byte) : FrameCheck :=
  let whole := wholeCount (1 + rest.length)
  match rest with
  | [] => .fail 0 (badLength code 0 whole)
  | [tagByte] => .fail (tagByte.setWidth 4) (badLength code 0 whole)
  | tagByte :: len :: body =>
    let tag : BitVec 4 := tagByte.setWidth 4
    let n := len.toNat
    if 24 < n ∨ body.length < n + 1 then .fail tag (badLength code len whole)
    else if crc8 (code :: tagByte :: len :: body.take n) ≠ byteAt body n then
      .fail tag { code := .badCrc, payload := [code] }
    else if acceptsLength code n then .pass tag (body.take n)
    else .fail tag (badLength code len whole)

/-- Steps 3 and 4 of a command frame's end: checks, collision, dispatch, activity (R185, R186, R188, R189,
R191). `body` is the command: it is given the payload. Events that the spec lets fall between the command and
the activity (R97) can stand after the frame in the queue: of what they do, the activity could change only the
expiry of a lease that is due now, and `renew` leaves that open (log entry 4). -/
def runCommand (p : Port) (code : Byte) (rest : List Byte) (body : List Byte → State → State × Reply)
    (s : State) : State :=
  match checkFrame code rest with
  | .fail tag r => if (s.port p).slot.isSome then collide p s else place p tag r s
  | .pass tag payload =>
    if (s.port p).slot.isSome then activity p (collide p s)
    else
      let out := body payload s
      activity p (place p tag out.2 out.1)

/-- The end of a command frame (R185). -/
def commandFrame (p : Port) (code : Byte) (rest : List Byte) (body : List Byte → State → State × Reply)
    (s : State) : State :=
  atFrameEnd p (code :: rest) (fun s => runCommand p code rest body (frameEnded p (code :: rest) s)) s

/-- The end of a READ frame: steps 1, 2 and 4 (R185). -/
def readFrameEnd (p : Port) (rest : List Byte) (s : State) : State :=
  atFrameEnd p (0 :: rest) (fun s => activity p (frameEnded p (0 :: rest) s)) s

/-- The start of a frame on an IDLE port: the status byte and the response to be clocked out are fixed, and
the frame bytes begin anew (R179, R181, R182). -/
def startFrame (p : Port) (s : State) : State :=
  let pt := s.port p
  s.setPort p
    { pt with
      recv := .receiving
      selSampled := true
      frameBytes := []
      wholeBytes := 0
      bits := []
      shifted := 0
      status := statusByte pt (s.queue p).notices.length
      presented := pt.slot }

/-- Byte `n` of what a port clocks out in the frame in progress: the status byte, the presented response
whole, then 0x00; outside RECEIVING the data-out line is LOW (R181, R196, R206). -/
def sdoByte (pt : PortIf) (n : Nat) : Byte :=
  match pt.recv with
  | .receiving =>
    match pt.presented with
    | some r => (pt.status :: responseBytes r).getD n 0
    | none => if n = 0 then pt.status else 0
  | _ => 0

/-- The level of a port's data-out line: the first bit of the frame from its start on, and the next one from each
falling edge of the clock on, most significant first in each byte; LOW outside a frame that counts
(R179, R181, R206). -/
def sdoLevel (pt : PortIf) : Level :=
  if (sdoByte pt (pt.shifted / 8)).getLsbD (7 - pt.shifted % 8) then .high else .low

/-! ### Refusals (R189, section 11.4) -/

/-- BAD_ARGUMENT, which carries nothing. -/
def badArgument : Reply := { code := .badArgument, payload := [] }

/-- WRONG_MODE, which carries nothing. -/
def wrongMode : Reply := { code := .wrongMode, payload := [] }

/-- NOT_CLAIMED carries the resource needed and its holder, or none (R111). -/
def notClaimed (resource : Byte) (holder : Option Port) : Reply :=
  { code := .notClaimed, payload := [resource, portCode holder] }

/-- The resource of a channel (R96). -/
def chanResource (c : Chan) : Resource := c.castLE (by decide)

/-- The resource DEV (R96). -/
def devResource : Resource := 8

/-- The gate of a channel command: the command runs for the holder of the named channel's resource and is
refused NOT_CLAIMED for any other port, before anything else of it; a channel above 7 names no resource
(R111). -/
def gateChannel (p : Port) (payload : List Byte) (body : Chan → State → State × Reply) (s : State) :
    State × Reply :=
  match finOf 8 (byteAt payload 0) with
  | none => (s, notClaimed (byteAt payload 0) none)
  | some c =>
    let h := (s.claim (chanResource c)).holder
    if h = some p then body c s else (s, notClaimed (byteAt payload 0) h)

/-- The gate of a DEV command (R111). -/
def gateDev (p : Port) (body : State → State × Reply) (s : State) : State × Reply :=
  let h := (s.claim devResource).holder
  if h = some p then body s else (s, notClaimed 8 h)

/-- A command that names a channel without a gate: a channel above 7 is refused BAD_ARGUMENT. -/
def withChannel (payload : List Byte) (body : Chan → State → State × Reply) (s : State) : State × Reply :=
  match finOf 8 (byteAt payload 0) with
  | none => (s, badArgument)
  | some c => body c s

/-- OK with a payload. -/
def okReply (payload : List Byte) : Reply := { code := .ok, payload := payload }

end Sys2Proof.Machine
end

