-- ==== Sys2Proof/Machine/Claims.lean ====
section
/-! DEFINITION. CLAIM, RELEASE, LEASE_EXPIRY. -/

namespace Sys2Proof.Machine

open Sys2Proof

/-- CLAIM of one resource (R98, R99). -/
def claimResource (p : Port) (r : Resource) (wait : Bool) (s : State) : State × Reply :=
  let cl := s.claim r
  let res := byteOf r.val
  match cl.holder with
  | none =>
    (s.setClaim r { cl with holder := some p, leaseDue := s.newLease },
     { code := .granted, payload := [res, s.device.leasePeriod] })
  | some h =>
    if h = p then (restartLease r s, { code := .held, payload := [res, s.device.leasePeriod] })
    else if p ∈ cl.waiters then
      (s, { code := .queued, payload := [res, byteOf h.val, byteOf (cl.waiters.idxOf p + 1)] })
    else if wait then
      (s.setClaim r { cl with waiters := cl.waiters ++ [p] },
       { code := .queued, payload := [res, byteOf h.val, byteOf (cl.waiters.length + 1)] })
    else (s, { code := .busy, payload := [res, byteOf h.val] })

/-- The arguments of CLAIM: a resource above 8, or a wait value other than clear or set, is refused (R98). -/
def claimBody (p : Port) (pl : List Byte) (s : State) : State × Reply :=
  match finOf 9 (byteAt pl 0), boolOf (byteAt pl 1) with
  | some r, some wait => claimResource p r wait s
  | _, _ => (s, badArgument)

/-- CLAIM (R98). -/
def execClaim (p : Port) (rest : List Byte) (s : State) : Host.Outcome State Fault Refusal :=
  .next (commandFrame p 0x10 rest (claimBody p) s)

/-- RELEASE of one resource (R101, R102). -/
def releaseResource (p : Port) (r : Resource) (s : State) : State × Reply :=
  let cl := s.claim r
  let res := byteOf r.val
  if cl.holder = some p then
    let s := pass r 1 p s
    (s, okReply [res, portCode (s.claim r).holder])
  else if p ∈ cl.waiters then
    (s.setClaim r { cl with waiters := cl.waiters.filter (fun q => q != p) },
     { code := .withdrawn, payload := [res] })
  else (s, { code := .notHeld, payload := [res, portCode cl.holder] })

/-- The argument of RELEASE: a resource above 8 is refused (R101). -/
def releaseBody (p : Port) (pl : List Byte) (s : State) : State × Reply :=
  match finOf 9 (byteAt pl 0) with
  | some r => releaseResource p r s
  | none => (s, badArgument)

/-- RELEASE (R101). -/
def execRelease (p : Port) (rest : List Byte) (s : State) : Host.Outcome State Fault Refusal :=
  .next (commandFrame p 0x11 rest (releaseBody p) s)

/-- LEASE_EXPIRY: the lease of a held resource falls due (R106). A lease that is not due now, or was restarted
at this tick, has no expiry (R5, R105; log entry 5). -/
def execLeaseExpiry (r : Resource) (s : State) : Host.Outcome State Fault Refusal :=
  .next (if s.running ∧ (s.claim r).leaseDue = some s.now then expireLease r s else s)

end Sys2Proof.Machine
end

