-- ==== Sys2Proof/Machine/Engine.lean ====
section
/-! DEFINITION. Line conditioning and the channel engines: the filter (R7 to R10), the report of a channel
(R11, R12), and its decoding in each mode (R23 to R34, R44 to R56). -/

namespace Sys2Proof.Machine

open Sys2Proof

/-! ### The filter (R7 to R10) -/

/-- The filter length of a filter step, in ticks (R7). -/
def filterLength (step : Fin 8) : Nat :=
  match step with
  | 0 => 0
  | 1 => 4
  | 2 => 8
  | 3 => 16
  | 4 => 32
  | 5 => 64
  | 6 => 128
  | 7 => 256

/-- What one sample gives: the conditioner after it, whether a filtered edge occurred, whether a rejected
glitch did (R11). -/
structure LineResult where
  line : Conditioner
  edge : Bool
  glitch : Bool
  deriving DecidableEq, Repr

/-- One sample of one line under filter length `L` (R8, R9, R10). -/
def sampleLine (L : Nat) (raw : Level) (l : Conditioner) : LineResult :=
  if L = 0 then
    { line := { raw := raw, filtered := raw, count := 0 }, edge := raw != l.filtered, glitch := false }
  else if raw = l.filtered then
    { line := { raw := raw, filtered := l.filtered, count := 0 }, edge := false, glitch := l.count != 0 }
  else if l.count + 1 < L then
    { line := { raw := raw, filtered := l.filtered, count := l.count + 1 }, edge := false, glitch := false }
  else
    { line := { raw := raw, filtered := raw, count := 0 }, edge := true, glitch := false }

/-- A channel's report: which lines had a filtered edge and which a rejected glitch (R11). The filtered
levels after the sample stand in the line conditioners. -/
structure Report where
  edgeA : Bool
  edgeB : Bool
  edgeZ : Bool
  glitchA : Bool
  glitchB : Bool
  glitchZ : Bool
  deriving DecidableEq, Repr

/-- A report with no edge and no glitch is not an event (R11). -/
def Report.isEvent (r : Report) : Bool :=
  r.edgeA || r.edgeB || r.edgeZ || r.glitchA || r.glitchB || r.glitchZ

/-! ### QUAD (R23 to R34) -/

/-- The next AB state of the forward sequence 00, 10, 11, 01 (R23). -/
def AB.forward : AB → AB
  | ⟨.low, .low⟩ => ⟨.high, .low⟩
  | ⟨.high, .low⟩ => ⟨.high, .high⟩
  | ⟨.high, .high⟩ => ⟨.low, .high⟩
  | ⟨.low, .high⟩ => ⟨.low, .low⟩

/-- Whether a resolution counts the forward transition out of an AB state (R24). -/
def countsForward (res : Resolution) (old : AB) : Bool :=
  match res with
  | .x4 => true
  | .x2 => decide (old = ⟨.low, .low⟩ ∨ old = ⟨.high, .high⟩)
  | .x1 => decide (old = ⟨.low, .low⟩)

/-- The step of a transition, with its sign: 1, -1, or none where it is not counted (R23, R24, R25). A
backward transition counts where the forward transition over the same edge does. -/
def quadStep (res : Resolution) (invert : Bool) (old new : AB) : Option Word :=
  if AB.forward old = new then
    if countsForward res old then some (if invert then -1 else 1) else none
  else if AB.forward new = old then
    if countsForward res new then some (if invert then 1 else -1) else none
  else none

/-- The index condition (R29). -/
def indexCondition (r : ChanSettings) (l : ChanLines) : Bool :=
  match r.indexQuadrant with
  | some q => decide (l.z.filtered = r.indexPolarity ∧ filteredAB l = q)
  | none => false

/-- A counted step: the position, then the primary event, then the position change (R26). -/
def countStep (c : Chan) (step : Word) (s : State) : State :=
  let e := s.engine c
  positionChange c (primaryEvent c (s.setEngine c { e with position := e.position + step }))

/-- A set referenced mark is cleared with a REFERENCE_LOST notice to the subscribed views: cause 1 for a
phase error, 2 for a PRESET (R39). -/
def clearReferenced (c : Chan) (cause : Word) (s : State) : State :=
  let e := s.engine c
  if e.referenced then
    noticeViews c .referenceLost e.position cause (s.setEngine c { e with referenced := false })
  else s

/-- The decoder takes the filtered AB levels (R23, R27). -/
def takeDecoderState (c : Chan) (s : State) : State :=
  s.setEngine c { s.engine c with modeState := .quad (filteredAB (s.chanLines c)) }

/-- A phase error (R27). -/
def phaseError (c : Chan) (s : State) : State :=
  clearReferenced c 1 (takeDecoderState c (faultEvent c s))

/-- A legal transition: the decoder follows it, and a counted one is a step (R23, R24). A mode state that is
no decoder state (which no QUAD channel reaches, log entry 16) counts no step. -/
def legalTransition (c : Chan) (s : State) : State :=
  let r := s.chanSettings c
  let new := filteredAB (s.chanLines c)
  let s' := takeDecoderState c s
  match (s.engine c).modeState with
  | .quad old =>
    match quadStep r.resolution r.invert old new with
    | some d => countStep c d s'
    | none => s'
  | _ => s'

/-- The homing load (R34). -/
def homingLoad (c : Chan) (s : State) : State :=
  let e := s.engine c
  let homeValue := (s.chanSettings c).homeValue
  positionChange c
    (noticeViews c .homed e.position homeValue
      (s.setEngine c { e with position := homeValue, referenced := true, homingArmed := false }))

/-- A qualified index: the ring push, the homing load if homing is armed, the capture event with the state
before the load (R31, R32). -/
def qualifiedIndex (c : Chan) (s : State) : State :=
  let e := s.engine c
  let s := pushEntry c .index e.position false e.homingArmed s
  captureEvent (.index c e) (if e.homingArmed then homingLoad c s else s)

/-- The index evaluation of a report that holds an edge: a qualified index where the condition goes from
FALSE to TRUE (R29). -/
def evalIndex (c : Chan) (s : State) : State :=
  let e := s.engine c
  let cond := indexCondition (s.chanSettings c) (s.chanLines c)
  let s' := s.setEngine c { e with indexCond := cond }
  if cond && !e.indexCond then qualifiedIndex c s' else s'

/-- The fault events of the rejected glitches of a report, one for each used line: A, then B, then Z (R12). -/
def glitchFaults (c : Chan) (a b z : Bool) (s : State) : State :=
  let s := if a then faultEvent c s else s
  let s := if b then faultEvent c s else s
  if z then faultEvent c s else s

/-- A report taken in QUAD: glitches, the AB decoding, the index evaluation (R28). -/
def reportQuad (c : Chan) (r : Report) (s : State) : State :=
  let zUsed := (s.chanSettings c).indexQuadrant.isSome
  let s := glitchFaults c r.glitchA r.glitchB (r.glitchZ && zUsed) s
  let s :=
    if r.edgeA && r.edgeB then phaseError c s
    else if r.edgeA || r.edgeB then legalTransition c s
    else s
  if r.edgeA || r.edgeB || r.edgeZ then evalIndex c s else s

/-! ### TALLY (R44 to R47) -/

/-- The gate state of a gate setting and the filtered level of B (R44). -/
def gateState (g : Gate) (b : Level) : ModeState :=
  match g with
  | .none => .gateOpen
  | .high => if b = .high then .gateOpen else .gateClosed
  | .low => if b = .low then .gateOpen else .gateClosed

/-- Whether an edge of A to a level is selected by the tally edge (R44). -/
def tallySelects (t : TallyEdge) (after : Level) : Bool :=
  match t with
  | .rise => after == .high
  | .fall => after == .low
  | .both => true

/-- A counted edge: the running count, then the primary event (R45). -/
def countEdge (c : Chan) (s : State) : State :=
  let e := s.engine c
  primaryEvent c (s.setEngine c { e with runningCount := e.runningCount + 1 })

/-- A report taken in TALLY: glitches, the gate, the edge of A (R43, R44, R45, R47). -/
def reportTally (c : Chan) (r : Report) (s : State) : State :=
  let t := s.chanSettings c
  let l := s.chanLines c
  let s := glitchFaults c r.glitchA (r.glitchB && t.gate != .none) false s
  let s :=
    if r.edgeB then s.setEngine c { s.engine c with modeState := gateState t.gate l.b.filtered } else s
  if r.edgeA && tallySelects t.tallyEdge l.a.filtered && (s.engine c).modeState == .gateOpen then countEdge c s
  else s

/-! ### SPAN and WIDTH (R48 to R56) -/

/-- The end of a measurement: the push, then the primary event (R48). -/
def endMeasurement (c : Chan) (kind : EntryKind) (value : Word) (overrange : Bool) (s : State) : State :=
  primaryEvent c (pushEntry c kind value overrange false s)

/-- The length of a measurement that began at `start`: now - start modulo 2^48, which the overrange limit
keeps within 32 bits (R4, R48). -/
def State.elapsed (s : State) (start : Tick) : Word := (s.now - start).setWidth 32

/-- The mode state of a channel engine is set. -/
def setModeState (c : Chan) (m : ModeState) (s : State) : State :=
  s.setEngine c { s.engine c with modeState := m }

/-- Whether an edge of A to a level is the span edge (R49). -/
def spanSelects (e : SpanEdge) (after : Level) : Bool :=
  match e with
  | .rise => after == .high
  | .fall => after == .low

/-- A span edge: it ends the period being timed, if one is, and starts the next (R49). -/
def spanEdge (c : Chan) (s : State) : State :=
  match (s.engine c).modeState with
  | .timing start =>
    setModeState c (.timing s.now) (endMeasurement c .period (s.elapsed start) false s)
  | _ => setModeState c (.timing s.now) s

/-- A report taken in SPAN (R43, R49). -/
def reportSpan (c : Chan) (r : Report) (s : State) : State :=
  let s := glitchFaults c r.glitchA false false s
  if r.edgeA && spanSelects (s.chanSettings c).spanEdge (s.chanLines c).a.filtered then spanEdge c s else s

/-- An edge of A in WIDTH: each state takes the one edge that its level of A allows (R53). -/
def widthEdge (c : Chan) (s : State) : State :=
  let active := decide ((s.chanLines c).a.filtered = (s.chanSettings c).widthLevel)
  match (s.engine c).modeState with
  | .waitInactive => if active then s else setModeState c .waitActive s
  | .waitActive => if active then setModeState c (.inPulse s.now) s else s
  | .inPulse start =>
    if active then s
    else setModeState c .waitActive (endMeasurement c .width (s.elapsed start) false s)
  | _ => s

/-- A report taken in WIDTH (R43, R53). -/
def reportWidth (c : Chan) (r : Report) (s : State) : State :=
  let s := glitchFaults c r.glitchA false false s
  if r.edgeA then widthEdge c s else s

/-- A channel engine takes the report of its channel as one event, in its mode (R11, R58). -/
def takeReport (c : Chan) (r : Report) (s : State) : State :=
  match (s.chanSettings c).mode with
  | .off => s
  | .quad => reportQuad c r s
  | .tally => reportTally c r s
  | .span => reportSpan c r s
  | .width => reportWidth c r s

/-! ### Samples (R6, R11, R16) -/

/-- The lines of a channel after a sample, with the report the sample makes (R6, R8, R9, R10). -/
def sampleChanLines (L : Nat) (v : Levels) (l : ChanLines) : ChanLines × Report :=
  let a := sampleLine L v.a l.a
  let b := sampleLine L v.b l.b
  let z := sampleLine L v.z l.z
  ({ a := a.line, b := b.line, z := z.line, sampled := true },
   { edgeA := a.edge, edgeB := b.edge, edgeZ := z.edge,
     glitchA := a.glitch, glitchB := b.glitch, glitchZ := z.glitch })

/-- Whether an edge selection matches a filtered edge to a level (R16). -/
def capSelects (sel : CapEdge) (after : Level) : Bool :=
  match sel with
  | .off => false
  | .rise => after == .high
  | .fall => after == .low
  | .both => true

/-- Whether the unit has been sampled at the present tick (R6; log entry 2). -/
def State.sampledNow (s : State) : Sample → Bool
  | .chan c _ => (s.chanLines c).sampled
  | .cap n _ => (s.cap n).sampled

/-- Whether a sample makes a filtered edge: a stable time falls due at it (R5, R8), or the filter step is 0
and the level changed (R9). -/
def State.edgeDue (s : State) : Sample → Bool
  | .chan c v =>
    let r := (sampleChanLines (filterLength (s.chanSettings c).filterStep) v (s.chanLines c)).2
    r.edgeA || r.edgeB || r.edgeZ
  | .cap n v => (sampleLine (filterLength s.device.lineFilterStep) v (s.cap n).line).edge

/-- One sample of a unit: the conditioners step; a channel hands its engine one report (R11); a matching
edge of a capture line is a capture event, and a glitch of it is discarded (R10, R16). -/
def takeSample (u : Sample) (s : State) : State :=
  match u with
  | .chan c v =>
    let x := sampleChanLines (filterLength (s.chanSettings c).filterStep) v (s.chanLines c)
    let s := s.setChanLines c x.1
    if x.2.isEvent then takeReport c x.2 s else s
  | .cap n v =>
    let x := sampleLine (filterLength s.device.lineFilterStep) v (s.cap n).line
    let s := s.setCap n { line := x.line, sampled := true }
    if x.edge && capSelects (tget s.device.capEdge n) x.line.filtered then captureEvent (.line n) s else s

/-- The tick at which the overrange wait of a measurement falls due (R5, R48). -/
def overrangeDue (m : ModeState) : Option Tick :=
  match m with
  | .timing start => some (start + BitVec.ofNat 48 overrangeTicks)
  | .inPulse start => some (start + BitVec.ofNat 48 overrangeTicks)
  | _ => none

/-- The expiry of an overrange wait: an entry of 2^32-1 with OVERRANGE, and back to waiting
(R48, R50, R54). -/
def overrangeEnd (c : Chan) (s : State) : State :=
  match (s.engine c).modeState with
  | .timing _ => setModeState c .waitFirst (endMeasurement c .period (BitVec.allOnes 32) true s)
  | .inPulse _ => setModeState c .waitInactive (endMeasurement c .width (BitVec.allOnes 32) true s)
  | _ => s

/-! ### Mode entry (R21, R46, R52, R56, R124) -/

/-- The entry state of a mode from the kept filtered levels (R124). -/
def entryState (r : ChanSettings) (l : ChanLines) : ModeState :=
  match r.mode with
  | .off => .none
  | .quad => .quad (filteredAB l)
  | .tally => gateState r.gate l.b.filtered
  | .span => .waitFirst
  | .width => if l.a.filtered = r.widthLevel then .waitInactive else .waitActive

/-- The engine's part of a reconfiguration (R124). The measurement in progress goes with its mode state. The
index condition ceases to have meaning in a mode other than QUAD and the spec gives it no value there (R22,
R124): FALSE, DESIGN CHOICE, log entry 9. -/
def enterMode (r : ChanSettings) (l : ChanLines) (e : Engine) : Engine :=
  { modeState := entryState r l
    position := 0
    runningCount := 0
    indexCond := r.mode == .quad && indexCondition r l
    referenced := false
    homingArmed := false
    faultTally := 0
    generation := e.generation + 1 }

end Sys2Proof.Machine
end

