-- ==== Sys2Proof/Machine/Lines.lean ====
section
/-! DEFINITION. LINE_SAMPLE, FILTERED_EDGE, OVERRANGE_EXPIRY. -/

namespace Sys2Proof.Machine

open Sys2Proof

/-- LINE_SAMPLE: the conditioners of a unit sample their lines, once a tick (R6, R8 to R11, R16). At a sample
at which a stable time falls due the filtered edge is part of it (the last row of R8). A unit already
sampled at this tick is not sampled again (log entry 2). -/
def execLineSample (u : Sample) (s : State) : Host.Outcome State Fault Refusal :=
  .next (if s.running ∧ s.sampledNow u = false then takeSample u s else s)

/-- FILTERED_EDGE: the sample at which a filter stable time falls due, or at filter step 0 the sample that
sees the change (R5, R8, R9). A sample that makes no filtered edge is no such event, and nothing happens
(log entries 5 and 11). -/
def execFilteredEdge (u : Sample) (s : State) : Host.Outcome State Fault Refusal :=
  .next (if s.running ∧ s.sampledNow u = false ∧ s.edgeDue u = true then takeSample u s else s)

/-- OVERRANGE_EXPIRY: the overrange wait of a SPAN or WIDTH channel falls due (R48, R50, R54). A wait that
is not due now has no expiry (R5; log entry 5). -/
def execOverrangeExpiry (c : Chan) (s : State) : Host.Outcome State Fault Refusal :=
  .next (if s.running ∧ overrangeDue (s.engine c).modeState = some s.now then overrangeEnd c s else s)

end Sys2Proof.Machine
end

