-- ==== Sys2Proof/Machine/Notices.lean ====
section
/-! DEFINITION. FETCH. -/

namespace Sys2Proof.Machine

open Sys2Proof

/-- Step 2 of FETCH: a pending loss appends a LOSS notice and the loss accounting starts anew
(R166, R167). -/
def appendLoss (now : Tick) (q : Queue) : Queue :=
  if q.lossPending then
    { notices := q.notices ++
        [{ kind := .loss, source := .zero, time := now, value := q.lost.setWidth 32, aux := 0 }]
      lost := 0
      lossPending := false }
  else q

/-- FETCH with a max of 1 to 4 (R166). -/
def fetchBody (p : Port) (pl : List Byte) (s : State) : State × Reply :=
  let max := (byteAt pl 0).toNat
  if 1 ≤ max ∧ max ≤ 4 then
    let q := s.queue p
    let k := min max q.notices.length
    let q' := appendLoss s.now { q with notices := q.notices.drop k }
    (evalLine p (s.setQueue p q'),
     okReply ([byteOf k, byteOf q'.notices.length] ++ ((q.notices.take k).map noticeBytes).flatten))
  else (s, badArgument)

/-- FETCH (R166). -/
def execFetch (p : Port) (rest : List Byte) (s : State) : Host.Outcome State Fault Refusal :=
  .next (commandFrame p 0x60 rest (fetchBody p) s)

end Sys2Proof.Machine
end

