-- ==== Sys2Proof/Machine/Ports.lean ====
section
/-! DEFINITION. FRAME_START, EMPTY_FRAME, ABANDONED_FRAME_END, READ_FRAME, UNKNOWN_COMMAND, PING, IDENTIFY. -/

namespace Sys2Proof.Machine

open Sys2Proof

/-- FRAME_START: select is sampled LOW after HIGH on an IDLE port (R179, R181, R182). A port that is in a
frame already has its select LOW, and a port whose select was sampled HIGH at this very tick is not sampled
again, so no frame begins (R179; log entries 5 and 19). -/
def execFrameStart (p : Port) (s : State) : Host.Outcome State Fault Refusal :=
  .next (if s.running ∧ (s.port p).recv = .idle ∧ (s.port p).selSampled = false then startFrame p s else s)

/-- EMPTY_FRAME: a frame ends with no whole byte clocked; the port returns to IDLE, bits of an incomplete byte
are discarded, and nothing else happens (R179). -/
def execEmptyFrame (p : Port) (s : State) : Host.Outcome State Fault Refusal :=
  .next (atFrameEnd p []
    (fun s => s.setPort p { s.port p with recv := .idle, selSampled := true, bits := [], shifted := 0 }) s)

/-- ABANDONED_FRAME_END: an abandoned frame ends and the port returns to IDLE (R196). A port that is not in
an abandoned frame is not concerned (log entries 5 and 19). -/
def execAbandonedFrameEnd (p : Port) (s : State) : Host.Outcome State Fault Refusal :=
  .next (if s.running ∧ (s.port p).recv = .abandoned ∧ (s.port p).selSampled = false then abandonedEnd p s else s)

/-- READ_FRAME (R185). -/
def execReadFrame (p : Port) (rest : List Byte) (s : State) : Host.Outcome State Fault Refusal :=
  .next (readFrameEnd p rest s)

/-- UNKNOWN_COMMAND: a code that is no command is answered with the code as payload, and changes nothing
(R189). A code that is 0x00 or a command's spells no row (log entry 13). -/
def execUnknownCommand (p : Port) (code : Byte) (rest : List Byte) (s : State) :
    Host.Outcome State Fault Refusal :=
  if code = 0 ∨ isCommandCode code = true then .refused .illFormed
  else .next (commandFrame p code rest (fun _ s => (s, { code := .unknownCommand, payload := [code] })) s)

/-- PING answers OK with a copy of its payload (R192). -/
def pingBody (pl : List Byte) (s : State) : State × Reply := (s, okReply pl)

/-- PING (R192). -/
def execPing (p : Port) (rest : List Byte) (s : State) : Host.Outcome State Fault Refusal :=
  .next (commandFrame p 0x01 rest pingBody s)

/-- IDENTIFY: family 0x2E, part 418, revision 1, 8 channels, 4 ports, the port's number (R193). -/
def identifyBody (p : Port) (_pl : List Byte) (s : State) : State × Reply :=
  (s, okReply ([0x2E] ++ le2 418 ++ [1, 8, 4, byteOf p.val]))

/-- IDENTIFY (R193). -/
def execIdentify (p : Port) (rest : List Byte) (s : State) : Host.Outcome State Fault Refusal :=
  .next (commandFrame p 0x02 rest (identifyBody p) s)

end Sys2Proof.Machine
end

