-- ==== Sys2Proof/Machine/Quad.lean ====
section
/-! DEFINITION. PRESET, HOME, HOME_CANCEL. -/

namespace Sys2Proof.Machine

open Sys2Proof

/-- PRESET after its gate (R37). -/
def presetBody (pl : List Byte) (c : Chan) (s : State) : State × Reply :=
  if (s.chanSettings c).mode = .quad then
    let e := s.engine c
    (positionChange c (clearReferenced c 2 (s.setEngine c { e with position := wordAt pl 1 })),
     okReply (le4 e.position))
  else (s, wrongMode)

/-- PRESET (R37). -/
def execPreset (p : Port) (rest : List Byte) (s : State) : Host.Outcome State Fault Refusal :=
  .next (commandFrame p 0x30 rest (fun pl => gateChannel p pl (presetBody pl)) s)

/-- HOME after its gate (R33). -/
def homeBody (c : Chan) (s : State) : State × Reply :=
  let r := s.chanSettings c
  if r.mode = .quad ∧ r.indexQuadrant ≠ none then
    (s.setEngine c { s.engine c with homingArmed := true }, okReply [])
  else (s, wrongMode)

/-- HOME (R33). -/
def execHome (p : Port) (rest : List Byte) (s : State) : Host.Outcome State Fault Refusal :=
  .next (commandFrame p 0x31 rest (fun pl => gateChannel p pl homeBody) s)

/-- HOME_CANCEL after its gate (R36). -/
def homeCancelBody (c : Chan) (s : State) : State × Reply :=
  let e := s.engine c
  (s.setEngine c { e with homingArmed := false }, okReply [yesNo e.homingArmed])

/-- HOME_CANCEL (R36). -/
def execHomeCancel (p : Port) (rest : List Byte) (s : State) : Host.Outcome State Fault Refusal :=
  .next (commandFrame p 0x32 rest (fun pl => gateChannel p pl homeCancelBody) s)

end Sys2Proof.Machine
end

