-- ==== Sys2Proof/Machine/Snapshots.lean ====
section
/-! DEFINITION. SNAP_ARM, SNAP_READ, SNAP_DISCARD, SNAP_LIST, ARM_LIMIT_EXPIRY, TIME_TARGET_REACHED. -/

namespace Sys2Proof.Machine

open Sys2Proof

/-! ### SNAP_ARM (R138 to R141) -/

/-- The source of a SNAP_ARM by the first checks of R138: an unknown source, a line above 1 or whose
selection is OFF, a source channel above 7 (BAD_ARGUMENT), a source channel that is not in QUAD with an index
quadrant set (WRONG_MODE). -/
def snapSourceOf (pl : List Byte) (s : State) : Except Reply SnapSource :=
  let arg := byteAt pl 10
  match (byteAt pl 9).toNat with
  | 0 => .ok .immediate
  | 1 =>
    match finOf 2 arg with
    | some n => if tget s.device.capEdge n = .off then .error badArgument else .ok (.line n)
    | none => .error badArgument
  | 2 =>
    match finOf 8 arg with
    | some c =>
      let r := s.chanSettings c
      if r.mode = .quad ∧ r.indexQuadrant ≠ none then .ok (.index c) else .error wrongMode
    | none => .error badArgument
  | 3 => .ok (.time (tickAt pl 11))
  | _ => .error badArgument

/-- QUOTA and STORE_FULL carry the port's held count and the quota in force (R141). -/
def storeRefusal (code : RespCode) (p : Port) (s : State) : Reply :=
  { code := code, payload := [byteOf (s.heldCount p), s.device.quota] }

/-- The checks of SNAP_ARM in the order of R138: the list, the source, the quota, a FREE slot. -/
def snapArmCheck (p : Port) (pl : List Byte) (s : State) :
    Except Reply (List Chan × SnapSource × SlotIdx) :=
  match chanListOf pl with
  | none => .error badArgument
  | some cs =>
    match snapSourceOf pl s with
    | .error r => .error r
    | .ok src =>
      if s.device.quota.toNat ≤ s.heldCount p then .error (storeRefusal .quota p s)
      else
        match s.lowestFree with
        | none => .error (storeRefusal .storeFull p s)
        | some i => .ok (cs, src, i)

/-- A slot is given out: its generation grows by 1, the owner's held count by 1, and it holds the snapshot
(R136, R137, R139). -/
def allocate (i : SlotIdx) (sn : Snapshot) (s : State) : State :=
  (s.setSlot i { generation := (s.slot i).generation + 1, body := some sn }).setHeldCount sn.owner
    (s.heldCount sn.owner + 1)

/-- The arming itself: the snapshot stands in its slot and its source acts (R139, R140). -/
def armSnapshot (p : Port) (cs : List Chan) (src : SnapSource) (limit : Half) (i : SlotIdx) (s : State) :
    State :=
  let atOnce : Bool :=
    match src with
    | .immediate => true
    | .time t => targetPassed s.now t
    | _ => false
  let late : Bool :=
    match src with
    | .time _ => atOnce
    | _ => false
  let sn : Snapshot :=
    { owner := p, channels := cs, source := src, armTime := s.now, armLimit := limit, late := late,
      phase := .armed [] (if atOnce then none else s.newArmLimit limit) }
  let s := allocate i sn s
  if atOnce then captureSlot none i s else s

/-- The state byte of a slot: 0 for FREE (R200). -/
def slotStateCode (slot : Slot) : Nat :=
  match slot.body with
  | some sn => SnapPhase.code sn.phase
  | none => 0

/-- SNAP_ARM (R138 to R141). -/
def snapArmBody (p : Port) (pl : List Byte) (s : State) : State × Reply :=
  match snapArmCheck p pl s with
  | .error r => (s, r)
  | .ok (cs, src, i) =>
    let s' := armSnapshot p cs src (halfAt pl 17) i s
    let slot := s'.slot i
    (s', okReply
      ([byteOf i.val, slot.generation, byteOf (slotStateCode slot), yesNo (slot.body.any (·.late))]
        ++ le6 s.now))

/-- SNAP_ARM (R138). -/
def execSnapArm (p : Port) (rest : List Byte) (s : State) : Host.Outcome State Fault Refusal :=
  .next (commandFrame p 0x50 rest (snapArmBody p) s)

/-! ### SNAP_READ, SNAP_DISCARD, SNAP_LIST (R153 to R156) -/

/-- The checks shared by SNAP_READ and SNAP_DISCARD: the slot number, the current handle, the owner
(R153, R155). -/
def currentHandle (p : Port) (pl : List Byte) (s : State) : Except Reply (SlotIdx × Snapshot) :=
  match finOf 24 (byteAt pl 0) with
  | none => .error badArgument
  | some i =>
    match (s.slot i).body with
    | none => .error { code := .unknownSnapshot, payload := [] }
    | some sn =>
      if (s.slot i).generation ≠ byteAt pl 1 then .error { code := .unknownSnapshot, payload := [] }
      else if sn.owner ≠ p then .error { code := .notOwner, payload := [] }
      else .ok (i, sn)

/-- SNAP_READ (R153). -/
def snapReadBody (p : Port) (pl : List Byte) (s : State) : State × Reply :=
  match currentHandle p pl s with
  | .error r => (s, r)
  | .ok (i, sn) =>
    match sn.phase with
    | .armed _ _ => (s, { code := .notReady, payload := [] })
    | _ => (freeSlot i s, okReply (snapRecord i (s.slot i).generation sn))

/-- SNAP_READ (R153). -/
def execSnapRead (p : Port) (rest : List Byte) (s : State) : Host.Outcome State Fault Refusal :=
  .next (commandFrame p 0x51 rest (snapReadBody p) s)

/-- SNAP_DISCARD (R155). -/
def snapDiscardBody (p : Port) (pl : List Byte) (s : State) : State × Reply :=
  match currentHandle p pl s with
  | .error r => (s, r)
  | .ok (i, sn) => (freeSlot i s, okReply [byteOf (SnapPhase.code sn.phase)])

/-- SNAP_DISCARD (R155). -/
def execSnapDiscard (p : Port) (rest : List Byte) (s : State) : Host.Outcome State Fault Refusal :=
  .next (commandFrame p 0x52 rest (snapDiscardBody p) s)

/-- Whether a slot is owned by a port. -/
def ownedBy (p : Port) (slot : Slot) : Bool := slot.body.any (fun sn => sn.owner == p)

/-- The slots a port owns, in ascending slot order. -/
def State.slotsOf (s : State) (p : Port) : List SlotIdx :=
  (List.finRange 24).filter (fun i => ownedBy p (s.slot i))

/-- SNAP_LIST (R156). -/
def snapListBody (p : Port) (_pl : List Byte) (s : State) : State × Reply :=
  let is := s.slotsOf p
  (s, okReply
    ([byteOf (s.heldCount p), s.device.quota, byteOf is.length]
      ++ (is.map (fun i =>
            [byteOf i.val, (s.slot i).generation, byteOf (slotStateCode (s.slot i))])).flatten))

/-- SNAP_LIST (R156). -/
def execSnapList (p : Port) (rest : List Byte) (s : State) : Host.Outcome State Fault Refusal :=
  .next (commandFrame p 0x53 rest (snapListBody p) s)

/-! ### Timed expiries of the store (R142, R147) -/

/-- The tick at which the running arm-limit wait of a slot falls due. -/
def State.armLimitDue (s : State) (i : SlotIdx) : Option Tick :=
  match (s.slot i).body with
  | some { phase := .armed _ due, .. } => due
  | _ => none

/-- ARM_LIMIT_EXPIRY: the arm-limit wait of an ARMED snapshot falls due (R147). A wait that is not due now
has no expiry (R5, R148; log entry 5). -/
def execArmLimitExpiry (i : SlotIdx) (s : State) : Host.Outcome State Fault Refusal :=
  .next (if s.running ∧ s.armLimitDue i = some s.now then expireSlot .timeout 0 i s else s)

/-- TIME_TARGET_REACHED: at the tick at which the timebase equals the target, one capture event serves every
ARMED snapshot with that target (R142). At any other tick it does not occur (log entry 5). -/
def execTimeTargetReached (t : Tick) (s : State) : Host.Outcome State Fault Refusal :=
  .next (if s.running ∧ s.now = t then captureEvent (.target t) s else s)

end Sys2Proof.Machine
end

