-- ==== Sys2Proof/Machine/Resets.lean ====
section
/-! DEFINITION. POWER_ON, POWER_ON_INTERVAL_END, RESET_PIN_ASSERT, RESET_PIN_RELEASE, PORT_RESET,
DEVICE_RESET. -/

namespace Sys2Proof.Machine

open Sys2Proof

/-! ### Device reset (R2, R18, R59, R74, R95, R116, R134, R160, R177) -/

/-- What every device reset does to the blocks behind the ports: timebase, engines, rings, views, claims,
settings, snapshot store, queues and interrupt lines. -/
def resetBlocks (s : State) : State :=
  { s with
    now := 0
    engines := State.reset.engines
    rings := State.reset.rings
    views := State.reset.views
    claims := State.reset.claims
    settings := State.reset.settings
    device := DeviceSettings.default
    wake := State.reset.wake
    slots := State.reset.slots
    held := State.reset.held
    queues := State.reset.queues
    intLine := State.reset.intLine }

/-- A conditioner takes its filtered level from its raw level and its count is 0 (R18). -/
def settle (l : Conditioner) : Conditioner := { raw := l.raw, filtered := l.raw, count := 0 }

/-- A conditioner that samples a level at the end of a reset (R18). -/
def settledAt (v : Level) : Conditioner := { raw := v, filtered := v, count := 0 }

/-- Every line conditioner at a DEVICE_RESET (R18). -/
def settleLines (s : State) : State :=
  { s with
    lines := tmap s.lines fun _ l => { l with a := settle l.a, b := settle l.b, z := settle l.z }
    caps := tmap s.caps fun _ x => { x with line := settle x.line } }

/-- A port that did not issue the reset: its slot is emptied, its frame in progress abandoned, its
reset-seen mark set (R183, R195, R196, R197). From the reset on it clocks out zeros. -/
def resetOtherPort (pt : PortIf) : PortIf :=
  { recv := if pt.recv = .receiving then .abandoned else pt.recv
    selSampled := pt.selSampled
    frameBytes := []
    wholeBytes := 0
    bits := []
    shifted := 0
    status := 0
    presented := none
    slot := none
    collided := false
    resetSeen := true }

/-- The port that issued a DEVICE_RESET: its frame has just ended, and both its marks are clear (R195). -/
def resetIssuer (pt : PortIf) : PortIf :=
  { pt with
    frameBytes := [], wholeBytes := 0, bits := [], shifted := 0, slot := none, collided := false
    resetSeen := false }

/-- A power-on or RESET pin reset starts: no line is sampled until it ends (R2, R197). -/
def startReset (phase : ResetPhase) (s : State) : State :=
  { resetBlocks s with phase := phase, ports := tmap s.ports fun _ pt => resetOtherPort pt }

/-- A port at the end of a power-on or RESET pin reset: ABANDONED where its select is LOW, else IDLE (R197). -/
def portAtResetEnd (select : Level) : PortIf :=
  { PortIf.reset with recv := if select = .low then .abandoned else .idle }

/-- A power-on or RESET pin reset ends: every line is sampled, the timebase reads 0, every port enters IDLE or
ABANDONED (R2, R18, R197). -/
def endReset (pins : PinLevels) (s : State) : State :=
  { s with
    phase := .running
    now := 0
    lines := tmap pins.chan fun _ v =>
      { a := settledAt v.a, b := settledAt v.b, z := settledAt v.z, sampled := true }
    caps := tmap pins.cap fun _ v => { line := settledAt v, sampled := true }
    ports := tmap pins.select fun _ v => portAtResetEnd v }

/-- POWER_ON: the supply rises (R2). -/
def execPowerOn (s : State) : Host.Outcome State Fault Refusal := .next (startReset (.powerOnInterval 0) s)

/-- POWER_ON_INTERVAL_END: 4,096 ticks after supply and CLKIN are in range the reset ends if RESET is HIGH; if it
is LOW the reset lasts until RESET is sampled HIGH (R2). `resetPin` is RESET as sampled at that tick: a row that
carries another level, or comes before the 4,096 ticks have passed, stands for no event (log entry 5). -/
def execPowerOnIntervalEnd (resetPin : Level) (pins : PinLevels) (s : State) :
    Host.Outcome State Fault Refusal :=
  .next
    (match s.phase with
    | .powerOnInterval elapsed =>
      if elapsed < powerOnTicks ∨ resetPin ≠ s.resetSampled then s
      else
        match resetPin with
        | .high => endReset pins s
        | .low => { s with phase := .pinHeld }
    | _ => s)

/-- RESET_PIN_ASSERT: RESET sampled LOW on 16 consecutive ticks starts a device reset; after fewer it has no effect
(R2; log entry 5). A device already in reset stays in it (log entry 10). -/
def execResetPinAssert (s : State) : Host.Outcome State Fault Refusal :=
  .next (if s.running ∧ resetPinTicks ≤ s.resetLow then startReset .pinHeld s else s)

/-- RESET_PIN_RELEASE: RESET first sampled HIGH ends a pin reset, which while RESET is LOW has no end (R2; log
entry 5). -/
def execResetPinRelease (pins : PinLevels) (s : State) : Host.Outcome State Fault Refusal :=
  .next (if s.phase = .pinHeld ∧ s.resetSampled = .high then endReset pins s else s)

/-- DEVICE_RESET after its gate: every block, the lines, the ports (R195). The port places RESET_DONE. -/
def deviceResetBody (p : Port) (s : State) : State × Reply :=
  let s := settleLines (resetBlocks s)
  ({ s with ports := tmap s.ports fun q pt => if q = p then resetIssuer pt else resetOtherPort pt },
   { code := .resetDone, payload := [] })

/-- DEVICE_RESET (R195). -/
def execDeviceReset (p : Port) (rest : List Byte) (s : State) : Host.Outcome State Fault Refusal :=
  .next (commandFrame p 0x71 rest (fun _ => gateDev p (deviceResetBody p)) s)

/-! ### Port reset (R194) -/

/-- The number of resources that satisfy a test. -/
def State.countClaims (s : State) (f : Claim → Bool) : Nat :=
  ((List.finRange 9).filter (fun r => f (s.claim r))).length

/-- Step 1 of the claim table's part: a resource the port holds passes with cause 3 or is left free (R114). -/
def dropHolding (p : Port) (r : Resource) (s : State) : State :=
  if (s.claim r).holder = some p then pass r 3 p s else s

/-- Step 2: the port leaves a waiter list (R114). -/
def dropWaiting (p : Port) (r : Resource) (s : State) : State :=
  let cl := s.claim r
  s.setClaim r { cl with waiters := cl.waiters.filter (fun q => q != p) }

/-- The snapshot store's part for one slot (R158). -/
def dropSlot (p : Port) (i : SlotIdx) (s : State) : State :=
  if ownedBy p (s.slot i) then freeSlot i s else s

/-- The view table's and the ring's part for one channel (R73, R94). -/
def dropView (p : Port) (c : Chan) (s : State) : State :=
  s.setView p c (View.fresh s.now (s.ring c).next)

/-- The notice queue's and the settings store's part (R134, R176). -/
def dropQueue (p : Port) (s : State) : State :=
  ((s.setQueue p Queue.reset).setWakeSet p 0xFFF).setIntLevel p .high

/-- PORT_RESET: every block's part, and OK with four counts taken before (R194). -/
def portResetBody (p : Port) (_pl : List Byte) (s : State) : State × Reply :=
  (dropQueue p
    (forChans (dropView p)
      (forSlots (dropSlot p)
        (forResources (dropWaiting p) (forResources (dropHolding p) s)))),
   okReply
    [byteOf (s.countClaims (fun cl => cl.holder == some p)),
     byteOf (s.countClaims (fun cl => decide (p ∈ cl.waiters))),
     byteOf (s.slotsOf p).length,
     byteOf (s.queue p).notices.length])

/-- PORT_RESET (R194). -/
def execPortReset (p : Port) (rest : List Byte) (s : State) : Host.Outcome State Fault Refusal :=
  .next (commandFrame p 0x70 rest (portResetBody p) s)

end Sys2Proof.Machine
end

