-- ==== Sys2Proof/Machine/Settings.lean ====
section
/-! DEFINITION. SET_CHANNEL with tuning changes and reconfiguration, GET_CHANNEL, READ_CHANNEL, SET_DEVICE,
GET_DEVICE, SET_PORT. -/

namespace Sys2Proof.Machine

open Sys2Proof

/-! ### Reconfiguration (R123) -/

/-- Whether a structural field differs (R117, R118). -/
def structuralDiffers (old new : ChanSettings) : Bool :=
  old.mode != new.mode || old.filterStep != new.filterStep || old.resolution != new.resolution
    || old.invert != new.invert || old.tallyEdge != new.tallyEdge || old.gate != new.gate
    || old.spanEdge != new.spanEdge || old.widthLevel != new.widthLevel

/-- A stable-time count is restarted and the levels are kept (R14). -/
def restartCount (l : Conditioner) : Conditioner := { l with count := 0 }

/-- Part 1 of a reconfiguration: the stable-time counts of the channel's lines (R14). -/
def restartChanLines (l : ChanLines) : ChanLines :=
  { l with a := restartCount l.a, b := restartCount l.b, z := restartCount l.z }

/-- The ring's part: the entries go, the numbering is kept, every cursor moves to the next sequence number
(R71). -/
def emptyRing (c : Chan) (s : State) : State :=
  let r := s.ring c
  forPorts (fun p s => s.setView p c { s.view p c with cursor := r.next })
    (s.setRing c { r with entries := [] })

/-- The view table's part for one port: the RECONFIGURED notice where the view held counts or subscribes,
the zeroing, the window state (R92). -/
def reconfigureView (c : Chan) (oldMode newMode : Mode) (unread : Word) (p : Port) (s : State) : State :=
  let v := s.view p c
  let n : Notice :=
    { kind := .reconfigured, source := .channel c, time := s.now, value := v.eventDelta,
      aux := reconfiguredAux v.faultDelta unread v.eventSat v.faultSat oldMode newMode }
  let told := v.eventDelta ≠ 0 ∨ v.faultDelta ≠ 0 ∨ unread ≠ 0 ∨ hasKind v.subs .reconfigured = true
  let s := if told then handNotice p n s else s
  s.setView p c
    { v.zeroed s.now with windowState := windowStateFor v newMode (s.engine c).position }

/-- The snapshot store's part for one slot: an INDEX source that is lost expires the snapshot, any other
ARMED snapshot that lists the channel takes the stale mark (R125, R149, R151). -/
def reconfigureSlot (c : Chan) (new : ChanSettings) (i : SlotIdx) (s : State) : State :=
  match s.armedSnap i with
  | none => s
  | some sn =>
    if sn.source = .index c ∧ new.mode ≠ .quad then expireSlot .sourceLost 2 i s
    else if sn.source = .index c ∧ new.indexQuadrant = none then expireSlot .sourceLost 3 i s
    else markStale c i s

/-- A reconfiguration of a channel to a record: the parts of R123 in their order. -/
def reconfigure (c : Chan) (new : ChanSettings) (s : State) : State :=
  let old := s.chanSettings c
  let lines := restartChanLines (s.chanLines c)
  let unread : Port → Word := fun p => s.unread p c
  let s := (s.setChanSettings c new).setChanLines c lines
  let s := s.setEngine c (enterMode new lines (s.engine c))
  let s := emptyRing c s
  let s := forPorts (fun p => reconfigureView c old.mode new.mode (unread p) p) s
  forSlots (reconfigureSlot c new) s

/-- A tuning change of a channel, its record stored: on a QUAD channel the index condition is recomputed
without a qualified index, and a quadrant set to NONE disarms homing and loses the INDEX snapshots; on any
other channel it only stores (R30, R121, R122). -/
def tuningChange (c : Chan) (new : ChanSettings) (s : State) : State :=
  let old := s.chanSettings c
  let s := s.setChanSettings c new
  let e := s.engine c
  if new.mode = .quad then
    if old.indexQuadrant ≠ none ∧ new.indexQuadrant = none then
      loseIndexSource c 3 (s.setEngine c { e with indexCond := false, homingArmed := false })
    else if old.indexQuadrant ≠ new.indexQuadrant ∨ old.indexPolarity ≠ new.indexPolarity then
      s.setEngine c { e with indexCond := indexCondition new (s.chanLines c) }
    else s
  else s

/-- A record that passed its checks is stored and acts by the class of the change (R118, R120). -/
def storeChannel (c : Chan) (new : ChanSettings) (s : State) : State × Reply :=
  if structuralDiffers (s.chanSettings c) new then
    let s := reconfigure c new s
    (s, okReply (le2 (s.engine c).generation ++ [1]))
  else
    let s := tuningChange c new s
    (s, okReply (le2 (s.engine c).generation ++ [0]))

/-- SET_CHANNEL after its gate: a record with a field outside its values is refused whole (R119). -/
def setChannelBody (pl : List Byte) (c : Chan) (s : State) : State × Reply :=
  match chanSettingsAt pl 1 with
  | some new => storeChannel c new s
  | none => (s, badArgument)

/-- SET_CHANNEL (R119, R120). -/
def execSetChannel (p : Port) (rest : List Byte) (s : State) : Host.Outcome State Fault Refusal :=
  .next (commandFrame p 0x20 rest (fun pl => gateChannel p pl (setChannelBody pl)) s)

/-- GET_CHANNEL of a channel (R128). -/
def getChannelBody (c : Chan) (s : State) : State × Reply :=
  (s, okReply (byteOf c.val :: chanSettingsBytes (s.chanSettings c) ++ le2 (s.engine c).generation))

/-- GET_CHANNEL (R128). -/
def execGetChannel (p : Port) (rest : List Byte) (s : State) : Host.Outcome State Fault Refusal :=
  .next (commandFrame p 0x21 rest (fun pl => withChannel pl getChannelBody) s)

/-- The count field of READ_CHANNEL: the position in QUAD, the running count in TALLY, else 0 (R129). -/
def countField (mode : Mode) (e : Engine) : Word :=
  match mode with
  | .quad => e.position
  | .tally => e.runningCount
  | _ => 0

/-- The presence byte and the 16 entry bytes of the latest ring entry (R129, R202). -/
def latestEntryBytes (r : Ring) : List Byte :=
  match r.entries.getLast? with
  | some e => 1 :: ringEntryBytes e
  | none => 0 :: List.replicate 16 0

/-- READ_CHANNEL of a channel: its live state (R129, R130). -/
def readChannelBody (c : Chan) (s : State) : State × Reply :=
  let e := s.engine c
  let mode := (s.chanSettings c).mode
  (s, okReply
    ([byteOf c.val, Mode.code mode, ModeState.code e.modeState, levelsByte (filteredLevels (s.chanLines c)),
      engineMarks e]
      ++ le4 (countField mode e) ++ le2 e.faultTally ++ le2 e.generation ++ le4 (s.ring c).next
      ++ latestEntryBytes (s.ring c) ++ le6 s.now))

/-- READ_CHANNEL (R129). -/
def execReadChannel (p : Port) (rest : List Byte) (s : State) : Host.Outcome State Fault Refusal :=
  .next (commandFrame p 0x33 rest (fun pl => withChannel pl readChannelBody) s)

/-! ### Device settings (R131, R132) -/

/-- A changed lease period acts on every held resource: its lease is started, restarted or stopped (R109). -/
def relength (r : Resource) (s : State) : State :=
  let cl := s.claim r
  if cl.holder.isSome then s.setClaim r { cl with leaseDue := s.newLease } else s

/-- A capture line's stable-time count is restarted (R15). -/
def restartCap (n : CapIdx) (s : State) : State :=
  let x := s.cap n
  s.setCap n { x with line := restartCount x.line }

/-- An ARMED LINE snapshot whose line's selection went to OFF loses its source (R17, R149). -/
def loseLineSource (old new : DeviceSettings) (i : SlotIdx) (s : State) : State :=
  match s.armedSnap i with
  | some { source := .line n, .. } =>
    if tget old.capEdge n ≠ .off ∧ tget new.capEdge n = .off then expireSlot .sourceLost 1 i s else s
  | _ => s

/-- A record that passed its checks is stored, and each changed field acts (R132). -/
def storeDevice (new : DeviceSettings) (s : State) : State :=
  let old := s.device
  let s := s.setDevice new
  let s := if old.leasePeriod ≠ new.leasePeriod then forResources relength s else s
  let s := forSlots (loseLineSource old new) s
  if old.lineFilterStep ≠ new.lineFilterStep then restartCap 1 (restartCap 0 s) else s

/-- SET_DEVICE after its gate (R132). -/
def setDeviceBody (pl : List Byte) (s : State) : State × Reply :=
  match deviceSettingsAt pl 0 with
  | some new => (storeDevice new s, okReply [])
  | none => (s, badArgument)

/-- SET_DEVICE (R132). -/
def execSetDevice (p : Port) (rest : List Byte) (s : State) : Host.Outcome State Fault Refusal :=
  .next (commandFrame p 0x22 rest (fun pl => gateDev p (setDeviceBody pl)) s)

/-- The device settings record as stored (R133). -/
def getDeviceBody (_pl : List Byte) (s : State) : State × Reply :=
  (s, okReply (deviceSettingsBytes s.device))

/-- GET_DEVICE (R133). -/
def execGetDevice (p : Port) (rest : List Byte) (s : State) : Host.Outcome State Fault Refusal :=
  .next (commandFrame p 0x23 rest getDeviceBody s)

/-- SET_PORT: the wake set is stored whole and the line evaluated again; a bit above 11 is refused (R170). -/
def setPortBody (p : Port) (pl : List Byte) (s : State) : State × Reply :=
  let w := halfAt pl 0
  if w.toNat < 4096 then
    let s := evalLine p (s.setWakeSet p (w.setWidth 12))
    (s, okReply (le2 w ++ [byteOf (s.queue p).notices.length, Level.code (s.intLevel p)]))
  else (s, badArgument)

/-- SET_PORT (R170). -/
def execSetPort (p : Port) (rest : List Byte) (s : State) : Host.Outcome State Fault Refusal :=
  .next (commandFrame p 0x24 rest (setPortBody p) s)

end Sys2Proof.Machine
end

