-- ==== Sys2Proof/Machine/Views.lean ====
section
/-! DEFINITION. TAKE, PEEK_VIEW, SET_VIEW, DRAIN. -/

namespace Sys2Proof.Machine

open Sys2Proof

/-- TAKE of a channel (R81). -/
def takeBody (p : Port) (c : Chan) (s : State) : State × Reply :=
  let v := s.view p c
  (s.setView p c (v.zeroed s.now),
   okReply (le4 v.eventDelta ++ le2 v.faultDelta ++ [takeMarks v] ++ le6 v.since ++ le6 s.now))

/-- TAKE (R81). -/
def execTake (p : Port) (rest : List Byte) (s : State) : Host.Outcome State Fault Refusal :=
  .next (commandFrame p 0x40 rest (fun pl => withChannel pl (takeBody p)) s)

/-- PEEK_VIEW of a channel (R83). -/
def peekViewBody (p : Port) (c : Chan) (s : State) : State × Reply :=
  let v := s.view p c
  (s, okReply
    (le4 v.eventDelta ++ le2 v.faultDelta ++ [peekMarks v] ++ le6 v.since ++ le4 v.eventThreshold
      ++ le2 v.faultThreshold ++ le4 v.low ++ le4 v.high
      ++ [windowCode v.windowState, v.subs.setWidth 8] ++ le4 v.cursor ++ le2 v.missed ++ le6 s.now))

/-- PEEK_VIEW (R83). -/
def execPeekView (p : Port) (rest : List Byte) (s : State) : Host.Outcome State Fault Refusal :=
  .next (commandFrame p 0x41 rest (fun pl => withChannel pl (peekViewBody p)) s)

/-- The settings of a view, as SET_VIEW gives them (R84). -/
structure ViewSettings where
  eventThreshold : Word
  faultThreshold : Half
  windowOn : Bool
  low : Word
  high : Word
  subs : BitVec 7
  deriving DecidableEq, Repr

/-- The view settings of a SET_VIEW payload; none where SET_VIEW is refused: an enable other than off or on,
low greater than high, or a kind outside the seven (R84). -/
def viewSettingsOf (pl : List Byte) : Option ViewSettings :=
  let low := wordAt pl 8
  let high := wordAt pl 12
  let subs := byteAt pl 16
  match boolOf (byteAt pl 7) with
  | some on =>
    if high.slt low ∨ 128 ≤ subs.toNat then none
    else some { eventThreshold := wordAt pl 1, faultThreshold := halfAt pl 5, windowOn := on, low, high,
                subs := subs.setWidth 7 }
  | none => none

/-- Settings stored in a view, replacing the earlier values whole (R84). -/
def View.withSettings (v : View) (w : ViewSettings) : View :=
  { v with eventThreshold := w.eventThreshold, faultThreshold := w.faultThreshold, windowOn := w.windowOn,
           low := w.low, high := w.high, subs := w.subs }

/-- Whether a delta is above a nonzero threshold (R85). -/
def isAbove {w : Nat} (threshold delta : BitVec w) : Bool := decide (threshold ≠ 0 ∧ threshold < delta)

/-- SET_VIEW stores the settings, brings the above marks into line with at most one notice each, and
recomputes the window state without a notice (R84, R85, R86). -/
def storeView (p : Port) (c : Chan) (w : ViewSettings) (s : State) : State :=
  let v := s.view p c
  let eventAbove := isAbove w.eventThreshold v.eventDelta
  let faultAbove := isAbove w.faultThreshold v.faultDelta
  let s := s.setView p c { v.withSettings w with eventAbove := eventAbove, faultAbove := faultAbove }
  let s :=
    if eventAbove && !v.eventAbove then deliver p c .threshold v.eventDelta w.eventThreshold s else s
  let s :=
    if faultAbove && !v.faultAbove then
      deliver p c .faultThreshold (v.faultDelta.setWidth 32) (w.faultThreshold.setWidth 32) s
    else s
  let v' := s.view p c
  s.setView p c
    { v' with windowState := windowStateFor v' (s.chanSettings c).mode (s.engine c).position }

/-- SET_VIEW (R84). -/
def setViewBody (p : Port) (pl : List Byte) (c : Chan) (s : State) : State × Reply :=
  match viewSettingsOf pl with
  | none => (s, badArgument)
  | some w =>
    let s := storeView p c w s
    let v := s.view p c
    (s, okReply [aboveMarks v, windowCode v.windowState])

/-- SET_VIEW (R84). -/
def execSetView (p : Port) (rest : List Byte) (s : State) : Host.Outcome State Fault Refusal :=
  .next (commandFrame p 0x42 rest (fun pl => withChannel pl (setViewBody p pl)) s)

/-- The `k` ring entries from a cursor onward, by sequence number modulo 2^32 (R62, R68). -/
def entriesFrom (r : Ring) (cursor : Word) (k : Nat) : List RingEntry :=
  r.entries.filter (fun e => decide ((e.seq - cursor).toNat < k))

/-- DRAIN of a channel with a max of 1 to 4 (R68). -/
def drainBody (p : Port) (pl : List Byte) (c : Chan) (s : State) : State × Reply :=
  let max := (byteAt pl 1).toNat
  if 1 ≤ max ∧ max ≤ 4 then
    let v := s.view p c
    let k := min max (s.unread p c).toNat
    let es := entriesFrom (s.ring c) v.cursor k
    let s := s.setView p c { v with cursor := v.cursor + BitVec.ofNat 32 k, missed := 0, overrun := false }
    (s, okReply
      (le2 v.missed ++ [byteOf k, (s.unread p c).setWidth 8] ++ le4 (s.view p c).cursor
        ++ (es.map ringEntryBytes).flatten))
  else (s, badArgument)

/-- DRAIN (R68). -/
def execDrain (p : Port) (rest : List Byte) (s : State) : Host.Outcome State Fault Refusal :=
  .next (commandFrame p 0x43 rest (fun pl => withChannel pl (drainBody p pl)) s)

end Sys2Proof.Machine
end

