-- ==== Sys2Proof/Machine/Dispatch.lean ====
section
/-! DEFINITION. One arm per row of spec/opcode_table.json, in the table's order. -/

namespace Sys2Proof.Machine

open Sys2Proof

def exec (i : Instr) (s : State) : Host.Outcome State Fault Refusal :=
  match i with
  | .powerOn => Sys2Proof.Machine.execPowerOn s
  | .powerOnIntervalEnd resetPin pins => Sys2Proof.Machine.execPowerOnIntervalEnd resetPin pins s
  | .resetPinAssert => Sys2Proof.Machine.execResetPinAssert s
  | .resetPinRelease pins => Sys2Proof.Machine.execResetPinRelease pins s
  | .lineSample u => Sys2Proof.Machine.execLineSample u s
  | .filteredEdge u => Sys2Proof.Machine.execFilteredEdge u s
  | .overrangeExpiry c => Sys2Proof.Machine.execOverrangeExpiry c s
  | .leaseExpiry r => Sys2Proof.Machine.execLeaseExpiry r s
  | .armLimitExpiry slot => Sys2Proof.Machine.execArmLimitExpiry slot s
  | .timeTargetReached t => Sys2Proof.Machine.execTimeTargetReached t s
  | .frameStart p => Sys2Proof.Machine.execFrameStart p s
  | .emptyFrame p => Sys2Proof.Machine.execEmptyFrame p s
  | .abandonedFrameEnd p => Sys2Proof.Machine.execAbandonedFrameEnd p s
  | .readFrame p rest => Sys2Proof.Machine.execReadFrame p rest s
  | .unknownCommand p code rest => Sys2Proof.Machine.execUnknownCommand p code rest s
  | .ping p rest => Sys2Proof.Machine.execPing p rest s
  | .identify p rest => Sys2Proof.Machine.execIdentify p rest s
  | .claim p rest => Sys2Proof.Machine.execClaim p rest s
  | .release p rest => Sys2Proof.Machine.execRelease p rest s
  | .setChannel p rest => Sys2Proof.Machine.execSetChannel p rest s
  | .getChannel p rest => Sys2Proof.Machine.execGetChannel p rest s
  | .setDevice p rest => Sys2Proof.Machine.execSetDevice p rest s
  | .getDevice p rest => Sys2Proof.Machine.execGetDevice p rest s
  | .setPort p rest => Sys2Proof.Machine.execSetPort p rest s
  | .preset p rest => Sys2Proof.Machine.execPreset p rest s
  | .home p rest => Sys2Proof.Machine.execHome p rest s
  | .homeCancel p rest => Sys2Proof.Machine.execHomeCancel p rest s
  | .readChannel p rest => Sys2Proof.Machine.execReadChannel p rest s
  | .take p rest => Sys2Proof.Machine.execTake p rest s
  | .peekView p rest => Sys2Proof.Machine.execPeekView p rest s
  | .setView p rest => Sys2Proof.Machine.execSetView p rest s
  | .drain p rest => Sys2Proof.Machine.execDrain p rest s
  | .snapArm p rest => Sys2Proof.Machine.execSnapArm p rest s
  | .snapRead p rest => Sys2Proof.Machine.execSnapRead p rest s
  | .snapDiscard p rest => Sys2Proof.Machine.execSnapDiscard p rest s
  | .snapList p rest => Sys2Proof.Machine.execSnapList p rest s
  | .fetch p rest => Sys2Proof.Machine.execFetch p rest s
  | .portReset p rest => Sys2Proof.Machine.execPortReset p rest s
  | .deviceReset p rest => Sys2Proof.Machine.execDeviceReset p rest s

end Sys2Proof.Machine
end

