-- ==== Sys2Proof/Machine/Tick.lean ====
section
/-! DEFINITION. The passing of a tick: what the 418 does when no command waits (R1, R2, R5, R6; log
entries 1 to 3, 20 and 21). -/

namespace Sys2Proof.Machine

open Sys2Proof

/-- The levels a channel's lines were last sampled at. -/
def heldLevels (l : ChanLines) : Levels := ⟨l.a.raw, l.b.raw, l.z.raw⟩

/-- Whether a sample at the level last seen would change a conditioner: an excursion is in progress, or has
been restarted (R8, R14). -/
def Conditioner.moving (l : Conditioner) : Bool := l.raw != l.filtered || l.count != 0

/-- The sample of a unit at given levels, as the row it is: a filtered edge where one falls due at it. -/
def State.sampleEvent (s : State) (u : Sample) : Instr :=
  if s.edgeDue u then .filteredEdge u else .lineSample u

/-- The units with an excursion in progress that no command has sampled at this tick; their pins keep the
level last seen (R6; log entry 2). Of the other units a sample at the level last seen changes nothing (R8). -/
def State.samplesOwed (s : State) : List Sample :=
  ((List.finRange 8).filter (fun c =>
      let l := s.chanLines c
      !l.sampled && (l.a.moving || l.b.moving || l.z.moving))).map
    (fun c => Sample.chan c (heldLevels (s.chanLines c)))
  ++ ((List.finRange 2).filter (fun n => !(s.cap n).sampled && (s.cap n).line.moving)).map
    (fun n => Sample.cap n (s.cap n).line.raw)

/-- The timed waits that fall due at the present tick and have not been taken (R5). -/
def State.expiriesDue (s : State) : List Instr :=
  ((List.finRange 8).filter (fun c => overrangeDue (s.engine c).modeState == some s.now)).map
    Instr.overrangeExpiry
  ++ ((List.finRange 9).filter
      (fun r => (s.claim r).holder.isSome && (s.claim r).leaseDue == some s.now)).map Instr.leaseExpiry
  ++ ((List.finRange 24).filter (fun i => s.armLimitDue i == some s.now)).map Instr.armLimitExpiry
  ++ (if (List.finRange 24).any (fun i => (s.armedSnap i).any (fun sn => sn.source == .time s.now)) then
        [Instr.timeTargetReached s.now] else [])

/-- The levels last seen at the pins of the lines and the selects: a select stands LOW while its port is in a
frame (R179, R197; log entry 2). -/
def State.heldPins (s : State) : PinLevels :=
  { chan := tmap s.lines fun _ l => heldLevels l
    cap := tmap s.caps fun _ x => x.line.raw
    select := tmap s.ports fun _ pt => if pt.recv = .idle then .high else .low }

/-- What the present tick still brings by itself: the start of a reset after 16 LOW samples of RESET, the samples
owed and the waits due; in a reset, its end. The spec lets them be taken in any order (R2, R51, R55, R97, R147; log
entry 3). -/
def State.owed (s : State) : List Instr :=
  match s.phase with
  | .running =>
    (if resetPinTicks ≤ s.resetLow then [Instr.resetPinAssert] else [])
      ++ s.samplesOwed.map s.sampleEvent ++ s.expiriesDue
  | .powerOnInterval elapsed => if elapsed < powerOnTicks then [] else [.powerOnIntervalEnd s.resetSampled s.heldPins]
  | .pinHeld => if s.resetSampled = .high then [.resetPinRelease s.heldPins] else []

/-- A list in a free order: each next event is picked by a free value. Answers the counter after the picks
(log entry 3). -/
def freeOrder : Nat → List Instr → Nat → List Instr × Nat
  | 0, l, k => (l, k)
  | fuel + 1, l, k =>
    if l.length ≤ 1 then (l, k)
    else
      match l[Config.pick k % l.length]? with
      | some x =>
        let t := freeOrder fuel (l.eraseIdx (Config.pick k % l.length)) (k + 1)
        (x :: t.1, t.2)
      | none => (l, k)

/-- Events join the tail of the queue in a free order. -/
def State.enqueue (s : State) (es : List Instr) : State :=
  let o := freeOrder es.length es s.freeCount
  { s with pending := s.pending ++ o.1, freeCount := o.2 }

/-- The level of RESET at the coming tick: the next one its wire brings, or the level last sampled
(log entry 21). -/
def State.resetLevel (s : State) : Level := s.resetWire.headD s.resetSampled

/-- RESET is sampled, on every tick: the consecutive LOW samples are counted to 16, and a HIGH one ends them
(R2). -/
def sampleReset (s : State) : State :=
  { s with
    resetLow := if s.resetLevel = .low then min resetPinTicks (s.resetLow + 1) else 0
    resetWire := s.resetWire.tail }

/-- A port at the beginning of a tick: it has taken the edges of its clock since the tick before, and its select has
not been sampled yet (R179; log entries 19 and 20). -/
def portAtTick (edges : List ClockEdge) (pt : PortIf) : PortIf :=
  { edges.foldl (fun pt e => takeEdge e pt) pt with selSampled := false }

/-- The next tick of a running device: the timebase advances by one modulo 2^48, the ports have taken their clock
edges, and no unit and no select has been sampled (R1, R6, R179). -/
def advanceRunning (s : State) : State :=
  { s with
    now := s.now + 1
    lines := tmap s.lines fun _ l => { l with sampled := false }
    caps := tmap s.caps fun _ x => { x with sampled := false }
    ports := tmap s.ports fun p pt => portAtTick ((tget s.wires p).headD []) pt }

/-- The next tick begins. RESET is sampled on every tick. In a power-on or RESET pin reset the timebase is held at
0, no line and no select is sampled and no bit is received; the ticks of the power-on interval are counted
(R2, R197). -/
def advance (s : State) : State :=
  let s' :=
    match s.phase with
    | .running => advanceRunning s
    | .powerOnInterval elapsed => { s with phase := .powerOnInterval (elapsed + 1) }
    | .pinHeld => s
  { sampleReset s' with wires := tmap s.wires fun _ w => w.tail }

/-- What happens when no command waits: everything still owed at this tick is queued in one free order; with
nothing owed, the next tick begins (log entries 1, 2 and 3). -/
def tick (s : State) : State := if s.owed = [] then advance s else s.enqueue s.owed

end Sys2Proof.Machine
end

