-- ==== Sys2Proof/Machine/Step.lean ====
section
/-! DEFINITION. One step: the command at the front of the queue, or a tick when none waits. -/

namespace Sys2Proof.Machine

open Sys2Proof

/-- One step. The command at the front of the queue runs with the rest of the queue; on an empty queue time
passes (`tick`, log entry 1). -/
def step (s : State) : Host.Outcome State Fault Refusal :=
  match s.pending with
  | [] => .next (tick s)
  | i :: is => exec i { s with pending := is }

/-- The state with the command a table word spells put at the front of the queue. The table gives no row
bits, so no word spells a command and the state is unchanged (log entry 14). -/
def State.withFetchWord (s : State) (nbits w : Nat) : State :=
  match decodeTableWord nbits w with
  | some i => { s with pending := i :: s.pending }
  | none => s

end Sys2Proof.Machine
end

