-- ==== Sys2Proof/Safety.lean ====
section
/-! DEFINITION. What the rules promise of every state (the invariants of R41, R60, R63, R80, R89, R96, R137,
R149, R163, R171, R184, R190), and the words in which the statements speak of frames. -/

namespace Sys2Proof.Machine

open Sys2Proof

/-! ### Invariants -/

/-- A queue holds at most 16 notices, its loss-pending mark is set only while it holds 16, and a loss is
pending exactly when some notice was lost (R163, R164, R167). -/
def QueueInv (s : State) : Prop :=
  ∀ p, (s.queue p).notices.length ≤ 16 ∧
    ((s.queue p).lossPending = true → (s.queue p).notices.length = 16) ∧
    ((s.queue p).lossPending = true ↔ (s.queue p).lost ≠ 0)

/-- An interrupt line is LOW exactly when its port's queue holds a notice of a kind in its wake set (R171). -/
def LineInv (s : State) : Prop :=
  ∀ p, s.intLevel p = .low ↔ ∃ n ∈ (s.queue p).notices, hasKind (s.wakeSet p) n.kind = true

/-- A resource has at most one holder; its waiter list holds each port once, never the holder, and is empty
without a holder; a lease runs exactly while there is a holder and the lease period is nonzero (R96, R110). -/
def ClaimInv (s : State) : Prop :=
  ∀ r, (s.claim r).waiters.Nodup ∧
    (∀ h, (s.claim r).holder = some h → h ∉ (s.claim r).waiters) ∧
    ((s.claim r).holder = none → (s.claim r).waiters = []) ∧
    ((s.claim r).leaseDue.isSome = true ↔ (s.claim r).holder.isSome = true ∧ s.device.leasePeriod ≠ 0)

/-- A ring holds at most 16 entries with consecutive sequence numbers ending one below the next, and every
cursor lies between the oldest held and the next sequence number, inclusive (R60, R63). -/
def RingInv (s : State) : Prop :=
  ∀ c, (s.ring c).entries.length ≤ 16 ∧
    (∀ k (h : k < (s.ring c).entries.length),
      ((s.ring c).entries[k]).seq + BitVec.ofNat 32 ((s.ring c).entries.length - k) = (s.ring c).next) ∧
    ∀ p, (s.unread p c).toNat ≤ (s.ring c).entries.length

/-- The number of slots a port owns. -/
def State.ownedCount (s : State) (p : Port) : Nat := (s.slotsOf p).length

/-- A port's held count is the number of slots that are not FREE and whose owner it is (R137). -/
def HeldInv (s : State) : Prop := ∀ p, s.heldCount p = s.ownedCount p

/-- An above mark is set exactly while its delta exceeds a nonzero threshold, and a saturated mark only while
its delta stands at its largest value (R75, R76, R77, R80). -/
def ViewMarksInv (s : State) : Prop :=
  ∀ p c, ((s.view p c).eventAbove = true ↔
      (s.view p c).eventThreshold ≠ 0 ∧ (s.view p c).eventThreshold < (s.view p c).eventDelta) ∧
    ((s.view p c).faultAbove = true ↔
      (s.view p c).faultThreshold ≠ 0 ∧ (s.view p c).faultThreshold < (s.view p c).faultDelta) ∧
    ((s.view p c).eventSat = true → (s.view p c).eventDelta = BitVec.allOnes 32) ∧
    ((s.view p c).faultSat = true → (s.view p c).faultDelta = BitVec.allOnes 16)

/-- A window state exists exactly while the window is enabled and the channel is in QUAD, and is then the
state of the channel's position (R86, R88, R89). -/
def WindowInv (s : State) : Prop :=
  ∀ p c, (s.view p c).windowState =
    if (s.view p c).windowOn = true ∧ (s.chanSettings c).mode = .quad then
      some (windowStateOf (s.view p c).low (s.view p c).high (s.engine c).position)
    else none

/-- The mode state belongs to the mode and to the filtered levels: the decoder state is the filtered AB, the
gate state that of filtered B, and the states of WIDTH are tied to the level of A (R19, R41, R44, R53). -/
def modeStateFits (r : ChanSettings) (l : ChanLines) (m : ModeState) : Prop :=
  match r.mode with
  | .off => m = .none
  | .quad => m = .quad (filteredAB l)
  | .tally => m = gateState r.gate l.b.filtered
  | .span => m = .waitFirst ∨ ∃ t, m = .timing t
  | .width =>
    if l.a.filtered = r.widthLevel then m = .waitInactive ∨ ∃ t, m = .inPulse t else m = .waitActive

/-- The engine items of R41 hold their fixed values outside the mode they belong to, the index condition is
that of the filtered levels in QUAD (R29, R30), homing is armed only with an index quadrant set (R33, R35),
and every channel is OFF during a power-on or RESET pin reset (R59, taken at the start of the reset: log entry 15,
DEDUCED). -/
def EngineInv (s : State) : Prop :=
  ∀ c, modeStateFits (s.chanSettings c) (s.chanLines c) (s.engine c).modeState ∧
    ((s.chanSettings c).mode ≠ .quad →
      (s.engine c).position = 0 ∧ (s.engine c).referenced = false ∧ (s.engine c).homingArmed = false) ∧
    ((s.chanSettings c).mode ≠ .tally → (s.engine c).runningCount = 0) ∧
    ((s.chanSettings c).mode = .quad →
      (s.engine c).indexCond = indexCondition (s.chanSettings c) (s.chanLines c)) ∧
    ((s.engine c).homingArmed = true → (s.chanSettings c).indexQuadrant ≠ none) ∧
    (¬ s.running → (s.chanSettings c).mode = .off)

/-- The kind of ring entry a mode pushes (R60). -/
def kindOfMode (m : Mode) : Option EntryKind :=
  match m with
  | .quad => some .index
  | .span => some .period
  | .width => some .width
  | .off => none
  | .tally => none

/-- A ring holds entries of the one kind its channel's mode pushes, and a TALLY or OFF channel has an empty
ring; OVERRANGE stands on no INDEX entry and HOMING on INDEX entries alone (R60, R61). -/
def RingKindInv (s : State) : Prop :=
  ∀ c, ∀ e ∈ (s.ring c).entries, kindOfMode (s.chanSettings c).mode = some e.kind ∧
    (e.kind = .index → e.overrange = false) ∧ (e.kind ≠ .index → e.homing = false)

/-- An ARMED snapshot has a source that can still fire; its stale marks are of listed channels; LATE stands
only on a CAPTURED TIME snapshot; a CAPTURED one has one entry for each listed channel, in order; a channel
list has 1 to 8 members in ascending order (R135, R138, R143, R149). -/
def SnapInv (s : State) : Prop :=
  ∀ i sn, (s.slot i).body = some sn →
    1 ≤ sn.channels.length ∧ sn.channels.length ≤ 8 ∧ ascending sn.channels = true ∧
    (sn.late = true → (∃ t, sn.source = .time t) ∧ ∃ t es, sn.phase = .captured t es) ∧
    match sn.phase with
    | .armed stale due =>
      (∀ c ∈ stale, c ∈ sn.channels) ∧ (due.isSome = true → sn.armLimit ≠ 0) ∧
      (match sn.source with
       | .immediate => False
       | .line n => tget s.device.capEdge n ≠ .off
       | .index c => (s.chanSettings c).mode = .quad ∧ (s.chanSettings c).indexQuadrant ≠ none
       | .time _ => True)
    | .captured _ es => es.map (·.channel) = sn.channels
    | .expired _ => sn.source ≠ .immediate

/-- The quota lies between 1 and 24 (R131). -/
def QuotaInv (s : State) : Prop := 1 ≤ s.device.quota.toNat ∧ s.device.quota.toNat ≤ 24

/-- Between samples a stable-time count lies between 0 and L-1 (R8), and is 0 at filter step 0 (R9). -/
def CountInv (s : State) : Prop :=
  s.running →
    (∀ c, ∀ l ∈ [(s.chanLines c).a, (s.chanLines c).b, (s.chanLines c).z],
      l.count = 0 ∨ l.count < filterLength (s.chanSettings c).filterStep) ∧
    ∀ n, (s.cap n).line.count = 0 ∨ (s.cap n).line.count < filterLength s.device.lineFilterStep

/-- RESET is counted LOW up to 16 ticks, and the ticks of a power-on interval up to 4,096 (R2). -/
def ResetInv (s : State) : Prop :=
  s.resetLow ≤ 16 ∧ ∀ elapsed, s.phase = .powerOnInterval elapsed → elapsed ≤ 4096

/-- A port in a frame presents what its slot holds; the first 28 bytes of a frame are kept, of those counted; a
byte in progress has at most 7 bits; and no frame that counts runs during a power-on or RESET pin reset
(R178, R179, R181, R184, R197). -/
def PortInv (s : State) : Prop :=
  ∀ p, ((s.port p).recv = .receiving → (s.port p).presented = (s.port p).slot) ∧
    (s.port p).frameBytes.length = min 28 (s.port p).wholeBytes.toNat ∧
    (s.port p).bits.length ≤ 7 ∧
    ((s.port p).recv = .receiving → s.running)

/-- No response in a slot carries a payload longer than 128 bytes (R190). -/
def ResponseInv (s : State) : Prop :=
  ∀ p r, (s.port p).slot = some r → r.payload.length ≤ 128

/-! ### Frames of effects -/

/-- The fields of State. -/
inductive Field where
  | phase
  | resetLow
  | now
  | lines
  | caps
  | engines
  | rings
  | views
  | claims
  | settings
  | device
  | wake
  | slots
  | held
  | queues
  | intLine
  | ports
  | resetWire
  | wires
  | freeCount
  | pending
  deriving DecidableEq, Repr

/-- A field has the same value in two states. -/
def Field.same (f : Field) (s t : State) : Prop :=
  match f with
  | .phase => t.phase = s.phase
  | .resetLow => t.resetLow = s.resetLow
  | .now => t.now = s.now
  | .lines => t.lines = s.lines
  | .caps => t.caps = s.caps
  | .engines => t.engines = s.engines
  | .rings => t.rings = s.rings
  | .views => t.views = s.views
  | .claims => t.claims = s.claims
  | .settings => t.settings = s.settings
  | .device => t.device = s.device
  | .wake => t.wake = s.wake
  | .slots => t.slots = s.slots
  | .held => t.held = s.held
  | .queues => t.queues = s.queues
  | .intLine => t.intLine = s.intLine
  | .ports => t.ports = s.ports
  | .resetWire => t.resetWire = s.resetWire
  | .wires => t.wires = s.wires
  | .freeCount => t.freeCount = s.freeCount
  | .pending => t.pending = s.pending

/-- Two states agree in every field but the listed ones: the frame of an effect. -/
def SameExcept (fs : List Field) (s t : State) : Prop := ∀ f, f ∉ fs → f.same s t

/-! ### What an event makes of a view, a ring and a queue -/

/-- A view after one primary event: the delta grows by 1 and may cross its threshold; at its largest value it
stays and the saturated mark is set (R76, R78). -/
def View.afterPrimary (v : View) : View :=
  if v.eventDelta = BitVec.allOnes 32 then { v with eventSat := true }
  else
    { v with
      eventDelta := v.eventDelta + 1
      eventAbove := v.eventAbove ||
        decide (v.eventThreshold ≠ 0 ∧ v.eventDelta ≤ v.eventThreshold ∧ v.eventThreshold < v.eventDelta + 1) }

/-- A view after one fault event (R77, R79). -/
def View.afterFault (v : View) : View :=
  if v.faultDelta = BitVec.allOnes 16 then { v with faultSat := true }
  else
    { v with
      faultDelta := v.faultDelta + 1
      faultAbove := v.faultAbove ||
        decide (v.faultThreshold ≠ 0 ∧ v.faultDelta ≤ v.faultThreshold ∧ v.faultThreshold < v.faultDelta + 1) }

/-- A ring after a push: with 16 entries held the oldest goes, the new entry joins as the newest under the
next sequence number, which then grows by 1 (R64). -/
def Ring.afterPush (r : Ring) (kind : EntryKind) (value : Word) (time : Tick) (overrange homing : Bool) : Ring :=
  { entries := (if 16 ≤ r.entries.length then r.entries.drop 1 else r.entries) ++
      [{ seq := r.next, kind, value, timestamp := time, overrange, homing }]
    next := r.next + 1 }

/-- A queue after a notice is handed to it (R164). -/
def Queue.afterNotice (q : Queue) (n : Notice) : Queue :=
  if q.notices.length < 16 then { q with notices := q.notices ++ [n] }
  else { q with lost := satInc q.lost, lossPending := true }

/-- A queue that is told a notice, or is not (R90). -/
def Queue.told (q : Queue) (tell : Bool) (n : Notice) : Queue := if tell then q.afterNotice n else q

/-! ### What an event makes of a port's account of a channel: its view and its queue -/

/-- A port's view of a channel with the port's notice queue. -/
structure Account where
  view : View
  queue : Queue
  deriving DecidableEq, Repr

/-- The account of a port in a state. -/
def State.account (s : State) (p : Port) (c : Chan) : Account := { view := s.view p c, queue := s.queue p }

/-- A notice of a channel for a view of it: handed to the queue if the view subscribes to its kind (R90). -/
def Account.news (c : Chan) (time : Tick) (kind : NoticeKind) (value aux : Word) (a : Account) : Account :=
  { a with
    queue := a.queue.told (hasKind a.view.subs kind) { kind, source := .channel c, time, value, aux } }

/-- A primary event: it is counted, and a view whose event-above mark it sets is told THRESHOLD
(R76, R78). -/
def Account.primary (c : Chan) (time : Tick) (a : Account) : Account :=
  if a.view.afterPrimary.eventAbove && !a.view.eventAbove then
    Account.news c time .threshold a.view.afterPrimary.eventDelta a.view.eventThreshold
      { a with view := a.view.afterPrimary }
  else { a with view := a.view.afterPrimary }

/-- A fault event: it is counted, and a view whose fault-above mark it sets is told FAULT_THRESHOLD
(R77, R79). -/
def Account.fault (c : Chan) (time : Tick) (a : Account) : Account :=
  if a.view.afterFault.faultAbove && !a.view.faultAbove then
    Account.news c time .faultThreshold (a.view.afterFault.faultDelta.setWidth 32)
      (a.view.faultThreshold.setWidth 32) { a with view := a.view.afterFault }
  else { a with view := a.view.afterFault }

/-- A position change: an enabled window takes the state of the new position, and the view is told WINDOW where
the state changes (R88). -/
def Account.position (c : Chan) (time : Tick) (pos : Word) (a : Account) : Account :=
  if a.view.windowOn = true ∧ a.view.windowState ≠ some (windowStateOf a.view.low a.view.high pos) then
    Account.news c time .window pos
      (windowAux a.view.windowState (some (windowStateOf a.view.low a.view.high pos)))
      { a with view :=
        { a.view with windowState := some (windowStateOf a.view.low a.view.high pos) } }
  else a

/-- A push into a ring: with 16 entries held the oldest is evicted, which is charged to a view whose cursor
stands on it. The cursor moves to the next number, the missed count grows or stays at 65,535, and the first
charge since the last DRAIN sets the overrun-reported mark and tells the view RING_OVERRUN (R64 to R66). -/
def Account.push (c : Chan) (time : Tick) (r : Ring) (a : Account) : Account :=
  match r.entries.head? with
  | some oldest =>
    if 16 ≤ r.entries.length ∧ a.view.cursor = oldest.seq then
      let charged : Account := { a with view :=
        { a.view with cursor := oldest.seq + 1, missed := satInc a.view.missed, overrun := true } }
      if a.view.overrun then charged
      else Account.news c time .ringOverrun (oldest.seq + 1) ((satInc a.view.missed).setWidth 32) charged
    else a
  | none => a

/-- What one event tells a port of its ARMED snapshots, in ascending slot order. `news` gives the notice for a
snapshot with its stale marks, or none (R143, R149). -/
def Queue.toldOfSlots (s : State) (p : Port) (news : SlotIdx → Snapshot → List Chan → Option Notice)
    (q : Queue) : Queue :=
  (List.finRange 24).foldl
    (fun q i =>
      match (s.slot i).body with
      | some sn =>
        match sn.phase with
        | .armed stale _ =>
          match news i sn stale with
          | some n => q.told (sn.owner == p) n
          | none => q
        | _ => q
      | none => q) q

/-- SNAPSHOT_READY of a snapshot that a capture event serves: value 1 LINE, 2 INDEX, 3 TIME, 4 TIME with LATE,
aux the number of entries with STALE_CONFIG (R146). -/
def readyNotice (serves : SnapSource → Bool) (s : State) (i : SlotIdx) (sn : Snapshot) (stale : List Chan) :
    Option Notice :=
  if serves sn.source then
    some { kind := .snapshotReady, source := .handle i (s.slot i).generation, time := s.now
           value :=
             match sn.source with
             | .immediate => 0
             | .line _ => 1
             | .index _ => 2
             | .time _ => if sn.late then 4 else 3
           aux := BitVec.ofNat 32 ((sn.channels.filter (fun c => decide (c ∈ stale))).length) }
  else none

/-- SNAPSHOT_EXPIRED with reason SOURCE_LOST of a snapshot whose source is lost for a cause (R147, R149). -/
def lostNotice (cause : SnapSource → Option Word) (s : State) (i : SlotIdx) (sn : Snapshot) (_ : List Chan) :
    Option Notice :=
  (cause sn.source).map fun aux =>
    { kind := .snapshotExpired, source := .handle i (s.slot i).generation, time := s.now, value := 2, aux }

/-! ### Samples, as the statements name them -/

/-- A conditioner before and after one sample under filter length `L`: the table of R8, and R9 for `L = 0`. -/
def Conditioned (L : Nat) (raw : Level) (l l' : Conditioner) : Prop :=
  l'.raw = raw ∧
  (L = 0 → l'.filtered = raw ∧ l'.count = 0) ∧
  (0 < L →
    (raw = l.filtered → l'.filtered = l.filtered ∧ l'.count = 0) ∧
    (raw ≠ l.filtered → l.count + 1 < L → l'.filtered = l.filtered ∧ l'.count = l.count + 1) ∧
    (raw ≠ l.filtered → L ≤ l.count + 1 → l'.filtered = raw ∧ l'.count = 0))

/-- A sample of a line ends an excursion as a rejected glitch (R8, R10). -/
def rejects (L : Nat) (raw : Level) (l : Conditioner) : Bool :=
  decide (0 < L ∧ raw = l.filtered ∧ l.count ≠ 0)

/-- The rejected glitches on used lines that one sample of a channel makes: A outside OFF; B in QUAD, and in
TALLY with a gate; Z in QUAD with an index quadrant (R12). -/
def usedGlitches (r : ChanSettings) (v : Levels) (l : ChanLines) : Nat :=
  let L := filterLength r.filterStep
  (if r.mode ≠ .off ∧ rejects L v.a l.a = true then 1 else 0)
    + (if (r.mode = .quad ∨ r.mode = .tally ∧ r.gate ≠ .none) ∧ rejects L v.b l.b = true then 1 else 0)
    + (if r.mode = .quad ∧ r.indexQuadrant ≠ none ∧ rejects L v.z l.z = true then 1 else 0)

/-- A fault tally after `n` more fault events (R13). -/
def tallyAfter (t : Half) (n : Nat) : Half := BitVec.ofNat 16 (min 65535 (t.toNat + n))

/-- A line had a filtered edge between two states of its conditioner (R8). -/
abbrev Edged (l l' : Conditioner) : Prop := l'.filtered ≠ l.filtered

/-- A filtered edge fell on a line of a sampled unit between two states (R8, R11). -/
def EdgeIn (u : Sample) (s t : State) : Prop :=
  match u with
  | .chan c _ => Edged (s.chanLines c).a (t.chanLines c).a ∨ Edged (s.chanLines c).b (t.chanLines c).b ∨
      Edged (s.chanLines c).z (t.chanLines c).z
  | .cap n _ => Edged (s.cap n).line (t.cap n).line

/-- The counted step of one legal transition with invert off: the tables of R23 and R24, row by row. -/
def stepTable (res : Resolution) (old new : AB) : Int :=
  let inX2 := res ≠ .x1
  let inX4 := res = .x4
  match old, new with
  | ⟨.low, .low⟩, ⟨.high, .low⟩ => 1
  | ⟨.high, .low⟩, ⟨.high, .high⟩ => if inX4 then 1 else 0
  | ⟨.high, .high⟩, ⟨.low, .high⟩ => if inX2 then 1 else 0
  | ⟨.low, .high⟩, ⟨.low, .low⟩ => if inX4 then 1 else 0
  | ⟨.high, .low⟩, ⟨.low, .low⟩ => -1
  | ⟨.high, .high⟩, ⟨.high, .low⟩ => if inX4 then -1 else 0
  | ⟨.low, .high⟩, ⟨.high, .high⟩ => if inX2 then -1 else 0
  | ⟨.low, .low⟩, ⟨.low, .high⟩ => if inX4 then -1 else 0
  | _, _ => 0

/-- The step with its sign: invert swaps it (R25). -/
def signedStep (r : ChanSettings) (old new : AB) : Int :=
  if r.invert then -stepTable r.resolution old new else stepTable r.resolution old new

/-- A report of a QUAD channel is a phase error: A and B both have an edge (R27). -/
def phaseErrorIn (l l' : ChanLines) : Bool := decide (Edged l.a l'.a ∧ Edged l.b l'.b)

/-- What the glitches and the AB decoding of a QUAD report make of a port's account: the fault events of the
glitches; then for a phase error one more and REFERENCE_LOST cause 1 where the referenced mark was set, for a counted
step a primary event and the new position (R26 to R28, R39). -/
def Account.decoded (c : Chan) (time : Tick) (r : ChanSettings) (e : Engine) (v : Levels) (l l' : ChanLines)
    (a : Account) : Account :=
  let faulted := (Account.fault c time)^[usedGlitches r v l] a
  let step := signedStep r (filteredAB l) (filteredAB l')
  if phaseErrorIn l l' then
    if e.referenced then Account.news c time .referenceLost e.position 1 (Account.fault c time faulted)
    else Account.fault c time faulted
  else if step = 0 then faulted
  else Account.position c time (e.position + BitVec.ofInt 32 step) (Account.primary c time faulted)

/-! ### Resets, as the statements name them -/

/-- Every block behind the ports has the state its chapter gives after a device reset (R2, R59, R74, R95, R116,
R134, R160, R177). -/
def BlocksReset (t : State) : Prop :=
  t.now = 0 ∧
  (∀ c, t.engine c = Engine.reset ∧ t.ring c = Ring.reset ∧ t.chanSettings c = ChanSettings.default) ∧
  (∀ p c, t.view p c = View.fresh 0 0) ∧
  (∀ r, t.claim r = Claim.free) ∧
  t.device = DeviceSettings.default ∧
  (∀ i, t.slot i = Slot.reset) ∧
  (∀ p, t.heldCount p = 0 ∧ t.queue p = Queue.reset ∧ t.wakeSet p = 0xFFF ∧ t.intLevel p = .high)

/-! ### Snapshots, as the statements name them -/

/-- An entry of a captured snapshot describes a channel by its mode, engine, lines and ring, as the table of R144
gives its fields. -/
structure Describes (en : SnapEntry) (c : Chan) (mode : Mode) (e : Engine) (l : ChanLines) (r : Ring)
    (stale : Bool) : Prop where
  channel : en.channel = c
  mode_eq : en.mode = mode
  generation : en.generation = e.generation
  levels : en.levels = ⟨l.a.filtered, l.b.filtered, l.z.filtered⟩
  faultTally : en.faultTally = e.faultTally
  staleConfig : en.staleConfig = stale
  off : mode = .off → en.primary = none
  quad : mode = .quad → en.primary = some e.position ∧ en.referenced = e.referenced
  tally : mode = .tally → en.primary = some e.runningCount
  measured : mode = .span ∨ mode = .width →
    match r.entries.getLast? with
    | some latest => en.primary = some latest.value ∧ en.seq = some latest.seq ∧ en.noMeasurement = false ∧
        en.overrange = latest.overrange
    | none => en.primary = none ∧ en.seq = none ∧ en.noMeasurement = true ∧ en.overrange = false
  unreferenced : mode ≠ .quad → en.referenced = false
  unmeasured : mode ≠ .span → mode ≠ .width →
    en.seq = none ∧ en.noMeasurement = false ∧ en.overrange = false

/-- The entries of a snapshot: one for each listed channel, in order, with the channels as `t` shows them but for
their engines, which are given (R144, R145). -/
def EntriesOf (es : List SnapEntry) (channels stale : List Chan) (engines : Chan → Engine) (t : State) : Prop :=
  List.Forall₂ (fun c en => Describes en c (t.chanSettings c).mode (engines c) (t.chanLines c) (t.ring c)
    (decide (c ∈ stale))) channels es

/-- A capture event at `s` leads to `t`: every ARMED snapshot it serves is CAPTURED now with its entries, and
every other slot stays (R142, R143). -/
def Captures (serves : SnapSource → Bool) (engines : Chan → Engine) (s t : State) : Prop :=
  ∀ i,
    match (s.slot i).body with
    | some sn =>
      match sn.phase with
      | .armed stale _ =>
        if serves sn.source then
          ∃ es, t.slot i = { s.slot i with body := some { sn with phase := .captured s.now es } } ∧
            EntriesOf es sn.channels stale engines t
        else t.slot i = s.slot i
      | _ => t.slot i = s.slot i
    | none => t.slot i = s.slot i

/-- A SNAP_ARM payload lists channels: a count of 1 to 8, then that many channel bytes in strictly ascending order
(R138). -/
def ListsChannels (pl : List Byte) (cs : List Chan) : Prop :=
  1 ≤ (byteAt pl 0).toNat ∧ (byteAt pl 0).toNat ≤ 8 ∧ cs.length = (byteAt pl 0).toNat ∧
    (pl.drop 1).take cs.length = cs.map (fun c => byteOf c.val) ∧ cs.Pairwise (· < ·)

/-- 1 for HIGH level (section 11.5). -/
def levelBit : Level → Nat
  | .low => 0
  | .high => 1

/-- The entry code, by the table of R205. -/
def EntryCode (e : SnapEntry) (code : Nat) : Prop :=
  match e.mode with
  | .off => code = 0
  | .quad => code = if e.referenced then 2 else 1
  | .tally => code = 3
  | .span => code = if e.noMeasurement then 6 else if e.overrange then 5 else 4
  | .width => code = if e.noMeasurement then 9 else if e.overrange then 8 else 7

/-- The 13 bytes of an entry (R205). -/
def EntryBytes (e : SnapEntry) (bs : List Byte) : Prop :=
  ∃ (code : Nat) (first : Byte), EntryCode e code ∧
    first.toNat = code + 16 * levelBit e.levels.a + 32 * levelBit e.levels.b + 64 * levelBit e.levels.z
      + (if e.staleConfig then 128 else 0) ∧
    bs = [first] ++ le2 e.generation ++ le2 e.faultTally
      ++ (match e.primary with | some x => le4 x | none => [0, 0, 0, 0])
      ++ (match e.seq with | some x => le4 x | none => [0, 0, 0, 0])

/-- The bytes of a snapshot record: the head of 18 bytes, then the reason of an EXPIRED slot, or the capture time
and the entries of a CAPTURED one (R205). -/
def RecordBytes (i : SlotIdx) (g : Byte) (sn : Snapshot) (bs : List Byte) : Prop :=
  ∃ (marks mask : Byte) (tail : List Byte) (state source arg : Nat) (target : Tick),
    bs = [byteOf i.val, g, marks, mask] ++ le6 sn.armTime ++ le2 sn.armLimit ++ le6 target ++ tail ∧
    marks.toNat = state + 4 * source + 16 * arg + (if sn.late then 128 else 0) ∧
    (∀ c : Chan, mask.getLsbD c.val = decide (c ∈ sn.channels)) ∧
    (match sn.source with
      | .immediate => source = 0 ∧ arg = 0 ∧ target = 0
      | .line n => source = 1 ∧ arg = n.val ∧ target = 0
      | .index c => source = 2 ∧ arg = c.val ∧ target = 0
      | .time t => source = 3 ∧ arg = 0 ∧ target = t) ∧
    match sn.phase with
    | .armed _ _ => False
    | .captured time es => state = 2 ∧
        ∃ entries, List.Forall₂ EntryBytes es entries ∧ tail = le6 time ++ entries.flatten
    | .expired reason => state = 3 ∧ tail = [match reason with | .timeout => 1 | .sourceLost => 2]

/-- The lowest-numbered FREE slot (R139). -/
def LowestFree (i : SlotIdx) (s : State) : Prop :=
  (s.slot i).body = none ∧ ∀ j, j < i → (s.slot j).body ≠ none

/-! ### Frames of the ports, as the statements name them -/

/-- A port is in a frame that counts, its select has not been sampled at this tick, and the whole bytes the frame
ends with begin with those received so far (R179; log entries 7 and 19). -/
structure InFrame (p : Port) (bytes : List Byte) (s : State) : Prop where
  running : s.running
  receiving : (s.port p).recv = .receiving
  unsampled : (s.port p).selSampled = false
  received : hasReceived (s.port p) bytes = true

/-- The response slot is empty after step 2 of the frame's end: it was empty, or the frame clocks out the
whole of the response presented (R184, R185). -/
def SlotClears (p : Port) (bytes : List Byte) (s : State) : Prop :=
  (s.port p).slot = none ∨
    ∃ r, (s.port p).presented = some r ∧ 5 + r.payload.length ≤ bytes.length

/-- A whole and undamaged command frame of an accepted length ends on a port in a frame, with room for its
response: the frame that R189 dispatches. `rest` is its bytes after the code. -/
structure Dispatched (p : Port) (code tagByte : Byte) (payload rest : List Byte) (s : State) : Prop where
  inFrame : InFrame p (code :: rest) s
  slotClears : SlotClears p (code :: rest) s
  length_le : payload.length ≤ 24
  accepted : acceptsLength code payload.length = true
  bytes : ∃ fill, rest = frameRest code tagByte payload fill

/-- The state after a dispatched command: the response stands in the slot under the frame's tag, and then
the frame's activity is taken (R185, R190, R191). -/
def answered (p : Port) (tagByte : Byte) (code : RespCode) (payload : List Byte) (s : State) : State :=
  activity p (place p (tagByte.setWidth 4) { code := code, payload := payload } s)

end Sys2Proof.Machine
end

