-- ==== Sys2Proof/Certificates/Slice0/Obligations.lean ====
section
/-! DEFINITION. The statements for the provers. In a statement about a command frame, `rest` is the frame after
its code byte, `frameEnded p (code :: rest) s` the state after the first two steps of the frame's end (R185), and
`answered p tagByte code payload t` the state `t` with the response placed and the frame's activity taken. -/

open Sys2Proof Sys2Proof.Machine

/-! ### Steps, time and resets -/

/-- A step runs the command at the front of the queue with the rest of the queue. -/
def Obligations.StepRunsFrontCommand : Prop :=
  ∀ (i : Instr) (is : List Instr) (s : State), s.pending = i :: is → step s = exec i { s with pending := is }

/-- On an empty queue, what is owed at this tick is queued in some order: in a running device the reset after 16
consecutive LOW samples of RESET, the samples and the waits; in a power-on interval its end after 4,096 ticks; in a
held reset its end with RESET sampled HIGH. With nothing owed the next tick begins. RESET is sampled on it, a HIGH
sample ending the count of LOW ones, so that a shorter pulse has no effect. In a reset the timebase stays and no line,
select or bit is taken. Else the timebase advances and each port has taken the edges of its clock: of those in a frame
that counts, a rising one joins a level to the bits of the byte in progress, most significant first, of which the
eighth makes a whole byte, kept among the first 28 and counted to 255, and a falling one moves data-out to the next bit
(R1, R2, R178 to R180, R196, R197, R206). That an idle step is what passes time, and which parts it has, is the model's
choice: log entries 1, 2, 3, 19, 20 and 21. -/
def Obligations.IdleStepPassesTime : Prop :=
  (∀ s : State, s.pending = [] →
    (s.running → s.owed =
      (if 16 ≤ s.resetLow then [Instr.resetPinAssert] else [])
        ++ s.samplesOwed.map s.sampleEvent ++ s.expiriesDue) ∧
    (∀ elapsed, s.phase = .powerOnInterval elapsed → s.owed =
      if 4096 ≤ elapsed then [.powerOnIntervalEnd (if s.resetLow = 0 then .high else .low) s.heldPins] else []) ∧
    (s.phase = .pinHeld → s.owed = if s.resetLow = 0 then [.resetPinRelease s.heldPins] else []) ∧
    (s.owed ≠ [] →
      ∃ l k, l.Perm s.owed ∧ step s = .next { s with pending := l, freeCount := k }) ∧
    (s.owed = [] →
      ∃ (t : State) (level : Level), step s = .next t ∧
        (∀ v later, s.resetWire = v :: later → level = v) ∧
        (s.resetWire = [] → (level = .low ↔ 0 < s.resetLow)) ∧
        (level = .high → t.resetLow = 0) ∧ (level = .low → t.resetLow = min 16 (s.resetLow + 1)) ∧
        t.resetWire = s.resetWire.tail ∧ (∀ p, tget t.wires p = (tget s.wires p).tail) ∧
        (∀ elapsed, s.phase = .powerOnInterval elapsed → t.phase = .powerOnInterval (elapsed + 1)) ∧
        (s.phase = .pinHeld → t.phase = .pinHeld) ∧
        (¬ s.running → SameExcept [.phase, .resetLow, .resetWire, .wires] s t) ∧
        (s.running → t.now = s.now + 1 ∧
          (∀ c, t.chanLines c = { s.chanLines c with sampled := false }) ∧
          (∀ n, t.cap n = { s.cap n with sampled := false }) ∧
          (∀ p, t.port p = { ((tget s.wires p).headD []).foldl (fun pt e => takeEdge e pt) (s.port p) with
            selSampled := false }) ∧
          SameExcept [.now, .lines, .caps, .ports, .resetLow, .resetWire, .wires] s t))) ∧
  ∀ pt : PortIf,
    (pt.recv ≠ .receiving → ∀ e, takeEdge e pt = pt) ∧
    (pt.recv = .receiving →
      takeEdge .fall pt = { pt with shifted := pt.shifted + 1 } ∧
      ∀ v,
        (pt.bits.length < 7 → takeEdge (.rise v) pt = { pt with bits := pt.bits ++ [v] }) ∧
        (pt.bits.length = 7 →
          ∃ b : Byte, (∀ k, k < 8 → b.getLsbD (7 - k) = decide ((pt.bits ++ [v])[k]? = some Level.high)) ∧
            takeEdge (.rise v) pt = { pt with
              bits := []
              frameBytes := if pt.frameBytes.length < 28 then pt.frameBytes ++ [b] else pt.frameBytes
              wholeBytes := satInc pt.wholeBytes }))

/-- No timed wait is passed over, and no line goes unsampled in an excursion: on an empty queue a step of a running
device queues the event of each wait that falls due at the present tick, a lease, an overrange wait, an arm limit or a
time target; RESET_PIN_ASSERT after 16 LOW samples of RESET; and, of each channel and capture line not yet sampled at
this tick with an excursion in progress (raw apart from filtered, or a stable-time count that is not 0), the sample at
the raw levels last seen: a FILTERED_EDGE where the stable time of a line falls due at it, or filter step 0 lets the
level through, else a LINE_SAMPLE. It queues no other of these, and leaves the tick exactly when it queues nothing
(R2, R5, R6, R8, R9). That these are events of the queue, that an empty queue is what queues them, and that an unsampled
unit keeps the level last seen and is sampled only in an excursion, is the model's choice: log entries 1, 2 and 3. -/
def Obligations.DueWaitsAreQueued : Prop :=
  ∀ s : State, s.pending = [] → s.running →
    ∃ t, step s = .next t ∧
      (t.pending ≠ [] → t.now = s.now) ∧ (t.pending = [] → t.now = s.now + 1) ∧
      (Instr.resetPinAssert ∈ t.pending ↔ 16 ≤ s.resetLow) ∧
      (∀ r, Instr.leaseExpiry r ∈ t.pending ↔
        (s.claim r).holder.isSome = true ∧ (s.claim r).leaseDue = some s.now) ∧
      (∀ c, Instr.overrangeExpiry c ∈ t.pending ↔
        ∃ start, ((s.engine c).modeState = .timing start ∨ (s.engine c).modeState = .inPulse start) ∧
          s.now = start + 4294967295) ∧
      (∀ i, Instr.armLimitExpiry i ∈ t.pending ↔
        ∃ sn stale, (s.slot i).body = some sn ∧ sn.phase = .armed stale (some s.now)) ∧
      (∀ target, Instr.timeTargetReached target ∈ t.pending ↔
        target = s.now ∧ ∃ i sn stale due, (s.slot i).body = some sn ∧ sn.phase = .armed stale due ∧
          sn.source = .time s.now) ∧
      (∀ c v,
        (Instr.filteredEdge (.chan c v) ∈ t.pending ∨ Instr.lineSample (.chan c v) ∈ t.pending ↔
          (s.chanLines c).sampled = false ∧
            v = ⟨(s.chanLines c).a.raw, (s.chanLines c).b.raw, (s.chanLines c).z.raw⟩ ∧
            ∃ l ∈ [(s.chanLines c).a, (s.chanLines c).b, (s.chanLines c).z],
              l.raw ≠ l.filtered ∨ l.count ≠ 0) ∧
        (Instr.filteredEdge (.chan c v) ∈ t.pending →
          ∃ l ∈ [(s.chanLines c).a, (s.chanLines c).b, (s.chanLines c).z],
            l.raw ≠ l.filtered ∧ filterLength (s.chanSettings c).filterStep ≤ l.count + 1) ∧
        (Instr.lineSample (.chan c v) ∈ t.pending →
          ∀ l ∈ [(s.chanLines c).a, (s.chanLines c).b, (s.chanLines c).z],
            l.raw ≠ l.filtered → l.count + 1 < filterLength (s.chanSettings c).filterStep)) ∧
      (∀ n v,
        (Instr.filteredEdge (.cap n v) ∈ t.pending ∨ Instr.lineSample (.cap n v) ∈ t.pending ↔
          (s.cap n).sampled = false ∧ v = (s.cap n).line.raw ∧
            ((s.cap n).line.raw ≠ (s.cap n).line.filtered ∨ (s.cap n).line.count ≠ 0)) ∧
        (Instr.filteredEdge (.cap n v) ∈ t.pending →
          (s.cap n).line.raw ≠ (s.cap n).line.filtered ∧
            filterLength s.device.lineFilterStep ≤ (s.cap n).line.count + 1) ∧
        (Instr.lineSample (.cap n v) ∈ t.pending →
          (s.cap n).line.raw ≠ (s.cap n).line.filtered →
            (s.cap n).line.count + 1 < filterLength s.device.lineFilterStep))

/-- A power-on, and in a running device RESET sampled LOW on 16 consecutive ticks, put every block in its state after
reset, empty every slot, set every reset-seen mark and abandon every frame (R2, R196 to R198, and the reset rules of the
blocks' chapters). The model's: that POWER_ON is taken in any phase is log entry 6 (DEDUCED); that the power-on interval
is counted from it, and that neither reset touches the count of LOW samples of RESET, is log entry 10 (DESIGN CHOICE);
that RESET_PIN_ASSERT after fewer LOW samples changes nothing is log entry 5 (DEDUCED from R2's shorter pulse); that the
blocks are reset at the start of the reset and the line conditioners wait for its end is log entry 15 (DEDUCED). -/
def Obligations.ResetStarts : Prop :=
  ∀ s : State,
    (∃ t, exec .powerOn s = .next t ∧ t.phase = .powerOnInterval 0 ∧ BlocksReset t ∧
      (∀ q, (t.port q).slot = none ∧ (t.port q).collided = false ∧ (t.port q).resetSeen = true ∧
        (t.port q).frameBytes = [] ∧ (t.port q).wholeBytes = 0 ∧ (t.port q).bits = [] ∧
        (t.port q).shifted = 0 ∧ sdoLevel (t.port q) = .low ∧
        (t.port q).recv = if (s.port q).recv = .receiving then .abandoned else (s.port q).recv) ∧
      t.lines = s.lines ∧ t.caps = s.caps ∧ t.wires = s.wires ∧ t.resetLow = s.resetLow ∧
      t.resetWire = s.resetWire ∧ t.pending = s.pending ∧ t.freeCount = s.freeCount) ∧
    (s.running → s.resetLow < 16 → exec .resetPinAssert s = .next s) ∧
    (s.running → 16 ≤ s.resetLow →
      ∃ t, exec .resetPinAssert s = .next t ∧ t.phase = .pinHeld ∧ BlocksReset t ∧
        (∀ q, (t.port q).slot = none ∧ (t.port q).collided = false ∧ (t.port q).resetSeen = true ∧
          (t.port q).frameBytes = [] ∧ (t.port q).wholeBytes = 0 ∧ (t.port q).bits = [] ∧
          (t.port q).shifted = 0 ∧ sdoLevel (t.port q) = .low ∧
          (t.port q).recv = if (s.port q).recv = .receiving then .abandoned else (s.port q).recv) ∧
        t.lines = s.lines ∧ t.caps = s.caps ∧ t.wires = s.wires ∧ t.resetLow = s.resetLow ∧
        t.resetWire = s.resetWire ∧ t.pending = s.pending ∧ t.freeCount = s.freeCount)

/-- The end of a power-on interval of 4,096 ticks with RESET sampled HIGH, and RESET sampled HIGH in a held reset, end
the reset: the timebase reads 0, each filtered level is the level at the pin, each port is IDLE, or ABANDONED with its
select LOW, its slot empty and its reset-seen mark set. With RESET LOW at its end the power-on reset goes on
(R2, R18, R197). That a row that comes before the 4,096 ticks, with RESET at another level than it carries, or with
RESET still LOW changes nothing is log entry 5 (DEDUCED). -/
def Obligations.ResetEnds : Prop :=
  ∀ (pins : PinLevels) (s : State),
    (∀ elapsed, s.phase = .powerOnInterval elapsed →
      (elapsed < 4096 → ∀ level, exec (.powerOnIntervalEnd level pins) s = .next s) ∧
      (4096 ≤ elapsed →
        (0 < s.resetLow →
          exec (.powerOnIntervalEnd .low pins) s = .next { s with phase := .pinHeld } ∧
          exec (.powerOnIntervalEnd .high pins) s = .next s) ∧
        (s.resetLow = 0 →
          exec (.powerOnIntervalEnd .high pins) s = .next (endReset pins s) ∧
          exec (.powerOnIntervalEnd .low pins) s = .next s))) ∧
    (s.phase = .pinHeld →
      (s.resetLow = 0 → exec (.resetPinRelease pins) s = .next (endReset pins s)) ∧
      (0 < s.resetLow → exec (.resetPinRelease pins) s = .next s)) ∧
    (endReset pins s).phase = .running ∧ (endReset pins s).now = 0 ∧
    (∀ c, (endReset pins s).chanLines c =
      { a := ⟨(tget pins.chan c).a, (tget pins.chan c).a, 0⟩
        b := ⟨(tget pins.chan c).b, (tget pins.chan c).b, 0⟩
        z := ⟨(tget pins.chan c).z, (tget pins.chan c).z, 0⟩
        sampled := true }) ∧
    (∀ n, (endReset pins s).cap n = { line := ⟨tget pins.cap n, tget pins.cap n, 0⟩, sampled := true }) ∧
    (∀ q, ((endReset pins s).port q).slot = none ∧ ((endReset pins s).port q).collided = false ∧
      ((endReset pins s).port q).resetSeen = true ∧ ((endReset pins s).port q).frameBytes = [] ∧
      ((endReset pins s).port q).wholeBytes = 0 ∧ ((endReset pins s).port q).bits = [] ∧
      ((endReset pins s).port q).shifted = 0 ∧ sdoLevel ((endReset pins s).port q) = .low ∧
      ((endReset pins s).port q).recv = if tget pins.select q = .low then .abandoned else .idle) ∧
    SameExcept [.phase, .now, .lines, .caps, .ports] s (endReset pins s)

/-- During a power-on or RESET pin reset no event is taken but those that end it (R2, R197). That each other row then
changes nothing is log entry 6 (DEDUCED), and that RESET_PIN_ASSERT changes nothing in a reset log entry 10 (DESIGN
CHOICE). -/
def Obligations.NothingIsTakenInReset : Prop :=
  ∀ (i : Instr) (s : State), ¬ s.running → i.wellFormed = true → i ≠ .powerOn →
    (∀ l pins, i ≠ .powerOnIntervalEnd l pins) → (∀ pins, i ≠ .resetPinRelease pins) →
    exec i s = .next s

/-! ### Lines and channel engines -/

/-- One sample of a channel steps its three conditioners, and one of a capture line its own, by the table of R8
(R9 with filter step 0), and marks the unit as sampled at this tick; no other conditioner, setting, claim, port or tick
is touched. That a LINE_SAMPLE or FILTERED_EDGE of a unit already sampled at this tick changes nothing is how log entry
2 (DESIGN CHOICE) keeps to the one sample a tick of R6. -/
def Obligations.SampleStepsConditioners : Prop :=
  ∀ s : State, s.running →
    (∀ c v, (s.chanLines c).sampled = false →
      ∃ t, exec (.lineSample (.chan c v)) s = .next t ∧ (t.chanLines c).sampled = true ∧
        Conditioned (filterLength (s.chanSettings c).filterStep) v.a (s.chanLines c).a (t.chanLines c).a ∧
        Conditioned (filterLength (s.chanSettings c).filterStep) v.b (s.chanLines c).b (t.chanLines c).b ∧
        Conditioned (filterLength (s.chanSettings c).filterStep) v.z (s.chanLines c).z (t.chanLines c).z ∧
        (∀ d, d ≠ c → t.chanLines d = s.chanLines d ∧ t.engine d = s.engine d ∧ t.ring d = s.ring d) ∧
        SameExcept [.lines, .engines, .rings, .views, .slots, .queues, .intLine] s t) ∧
    (∀ n v, (s.cap n).sampled = false →
      ∃ t, exec (.lineSample (.cap n v)) s = .next t ∧ (t.cap n).sampled = true ∧
        Conditioned (filterLength s.device.lineFilterStep) v (s.cap n).line (t.cap n).line ∧
        (∀ m, m ≠ n → t.cap m = s.cap m) ∧
        SameExcept [.caps, .slots, .queues, .intLine] s t) ∧
    (∀ c v, (s.chanLines c).sampled = true →
      exec (.lineSample (.chan c v)) s = .next s ∧ exec (.filteredEdge (.chan c v)) s = .next s) ∧
    (∀ n v, (s.cap n).sampled = true →
      exec (.lineSample (.cap n v)) s = .next s ∧ exec (.filteredEdge (.cap n v)) s = .next s)

/-- A FILTERED_EDGE is a sample at which a filtered edge falls: it does what the LINE_SAMPLE at the same levels does,
which changes a filtered level of the unit exactly where an edge is due. That the two rows share a sample so is log
entry 11, DEDUCED from R6, R8 and R9; that a FILTERED_EDGE at which no edge falls changes nothing is log entries 5 and
11 (DEDUCED). -/
def Obligations.FilteredEdgeIsItsSample : Prop :=
  ∀ (u : Sample) (s : State), s.running → s.sampledNow u = false →
    ∃ t, exec (.lineSample u) s = .next t ∧
      (s.edgeDue u = true → exec (.filteredEdge u) s = .next t ∧ EdgeIn u s t) ∧
      (s.edgeDue u = false → exec (.filteredEdge u) s = .next s ∧ ¬ EdgeIn u s t)

/-- A report without an edge: each rejected glitch on a used line is a fault event, added to the channel's tally
up to 65,535 and to all four views, with FAULT_THRESHOLD where it crosses; a glitch on an unused line is discarded;
nothing else changes. In OFF no report, with edges or without, reaches anything but the lines
(R8, R10, R12, R13, R58, R77, R79). -/
def Obligations.GlitchesOnUsedLinesAreFaults : Prop :=
  ∀ (c : Chan) (v : Levels) (s : State), s.running → (s.chanLines c).sampled = false →
    (s.edgeDue (.chan c v) = false →
      ∃ t, exec (.lineSample (.chan c v)) s = .next t ∧
        t.engine c = { s.engine c with
          faultTally := tallyAfter (s.engine c).faultTally
            (usedGlitches (s.chanSettings c) v (s.chanLines c)) } ∧
        (∀ d, d ≠ c → t.engine d = s.engine d) ∧
        (∀ p, t.account p c = (Account.fault c s.now)^[usedGlitches (s.chanSettings c) v (s.chanLines c)]
          (s.account p c)) ∧
        (∀ p d, d ≠ c → t.view p d = s.view p d) ∧
        SameExcept [.lines, .engines, .views, .queues, .intLine] s t) ∧
    ((s.chanSettings c).mode = .off →
      ∃ t, exec (.lineSample (.chan c v)) s = .next t ∧ SameExcept [.lines] s t)

/-- A sample of a TALLY channel: the rejected glitches on used lines are its fault events; an edge of B evaluates the
gate from the level of B after the report; a selected edge of A that finds the gate open adds 1 to the running count
and is one primary event of all four views, after the fault events; every other edge changes nothing more
(R43 to R45, R47, R76 to R79). -/
def Obligations.TallyCountsSelectedEdges : Prop :=
  ∀ (c : Chan) (v : Levels) (s : State), s.running → (s.chanLines c).sampled = false →
    (s.chanSettings c).mode = .tally →
    ∃ t gate, exec (.lineSample (.chan c v)) s = .next t ∧
      (Edged (s.chanLines c).b (t.chanLines c).b →
        gate = gateState (s.chanSettings c).gate (t.chanLines c).b.filtered) ∧
      (¬ Edged (s.chanLines c).b (t.chanLines c).b → gate = (s.engine c).modeState) ∧
      (Edged (s.chanLines c).a (t.chanLines c).a ∧
          tallySelects (s.chanSettings c).tallyEdge (t.chanLines c).a.filtered = true ∧ gate = .gateOpen →
        t.engine c = { s.engine c with
          modeState := gate, runningCount := (s.engine c).runningCount + 1
          faultTally := tallyAfter (s.engine c).faultTally
            (usedGlitches (s.chanSettings c) v (s.chanLines c)) } ∧
        ∀ p, t.account p c = Account.primary c s.now
          ((Account.fault c s.now)^[usedGlitches (s.chanSettings c) v (s.chanLines c)] (s.account p c))) ∧
      (¬ (Edged (s.chanLines c).a (t.chanLines c).a ∧
          tallySelects (s.chanSettings c).tallyEdge (t.chanLines c).a.filtered = true ∧ gate = .gateOpen) →
        t.engine c = { s.engine c with
          modeState := gate
          faultTally := tallyAfter (s.engine c).faultTally
            (usedGlitches (s.chanSettings c) v (s.chanLines c)) } ∧
        ∀ p, t.account p c =
          (Account.fault c s.now)^[usedGlitches (s.chanSettings c) v (s.chanLines c)] (s.account p c)) ∧
      (∀ d, d ≠ c → t.engine d = s.engine d ∧ ∀ p, t.view p d = s.view p d) ∧
      SameExcept [.lines, .engines, .views, .queues, .intLine] s t

/-- A sample of a QUAD channel that makes no qualified index, homing armed or not: exactly one edge of A and B is a
legal transition, which adds its signed step to the position and, where it is counted, is a primary event and a
position change for each view; two edges are a phase error, which keeps the position, is a fault event after those of
the glitches, and clears a set referenced mark with REFERENCE_LOST cause 1; the decoder follows; a report with an edge
evaluates the index condition; the ring and the snapshots stay (R23 to R29, R35, R39). -/
def Obligations.QuadDecodesTransitions : Prop :=
  ∀ (c : Chan) (v : Levels) (s : State), s.running → (s.chanLines c).sampled = false →
    (s.chanSettings c).mode = .quad → (s.engine c).modeState = .quad (filteredAB (s.chanLines c)) →
    ∃ t, exec (.lineSample (.chan c v)) s = .next t ∧
      (¬ (s.edgeDue (.chan c v) = true ∧ (s.engine c).indexCond = false ∧
          (t.chanLines c).z.filtered = (s.chanSettings c).indexPolarity ∧
          (s.chanSettings c).indexQuadrant = some (filteredAB (t.chanLines c))) →
        t.engine c = { s.engine c with
          modeState := .quad (filteredAB (t.chanLines c))
          position := (s.engine c).position + BitVec.ofInt 32 (signedStep (s.chanSettings c)
            (filteredAB (s.chanLines c)) (filteredAB (t.chanLines c)))
          referenced := (s.engine c).referenced && !phaseErrorIn (s.chanLines c) (t.chanLines c)
          faultTally := tallyAfter (s.engine c).faultTally
            (usedGlitches (s.chanSettings c) v (s.chanLines c)
              + if phaseErrorIn (s.chanLines c) (t.chanLines c) then 1 else 0)
          indexCond :=
            if s.edgeDue (.chan c v) = true then
              decide ((t.chanLines c).z.filtered = (s.chanSettings c).indexPolarity ∧
                (s.chanSettings c).indexQuadrant = some (filteredAB (t.chanLines c)))
            else (s.engine c).indexCond } ∧
        (∀ p, t.account p c = Account.decoded c s.now (s.chanSettings c) (s.engine c) v (s.chanLines c)
          (t.chanLines c) (s.account p c)) ∧
        SameExcept [.lines, .engines, .views, .queues, .intLine] s t) ∧
      (∀ d, d ≠ c → t.engine d = s.engine d ∧ t.ring d = s.ring d ∧ ∀ p, t.view p d = s.view p d) ∧
      SameExcept [.lines, .engines, .rings, .views, .slots, .queues, .intLine] s t

/-- A qualified index, after the decoding of its report: an INDEX entry carries the position after the decoding, with
HOMING where homing is armed, and a full ring charges the views it leaves behind. With homing armed the home value is
loaded, the referenced mark set, homing disarmed, HOMED told and the windows moved; with homing not armed the position
and the mark stay. Then the snapshots waiting for the index are captured with the channel as it stood before the load,
and their owners told SNAPSHOT_READY (R28, R29, R31, R32, R34, R64 to R66, R143 to R146). -/
def Obligations.QualifiedIndexIsTaken : Prop :=
  ∀ (c : Chan) (v : Levels) (q : AB) (s : State), s.running → (s.chanLines c).sampled = false →
    (s.chanSettings c).mode = .quad → (s.engine c).modeState = .quad (filteredAB (s.chanLines c)) →
    (s.chanSettings c).indexQuadrant = some q → (s.engine c).indexCond = false →
    s.edgeDue (.chan c v) = true →
    ∃ t, exec (.lineSample (.chan c v)) s = .next t ∧
      ((t.chanLines c).z.filtered = (s.chanSettings c).indexPolarity → filteredAB (t.chanLines c) = q →
        ∃ (before : Engine) (decoded pushed : Port → Account),
          before = { s.engine c with
            modeState := .quad q
            position := (s.engine c).position + BitVec.ofInt 32 (signedStep (s.chanSettings c)
              (filteredAB (s.chanLines c)) q)
            referenced := (s.engine c).referenced && !phaseErrorIn (s.chanLines c) (t.chanLines c)
            faultTally := tallyAfter (s.engine c).faultTally
              (usedGlitches (s.chanSettings c) v (s.chanLines c)
                + if phaseErrorIn (s.chanLines c) (t.chanLines c) then 1 else 0)
            indexCond := true } ∧
          t.ring c = (s.ring c).afterPush .index before.position s.now false (s.engine c).homingArmed ∧
          (∀ p, decoded p = Account.decoded c s.now (s.chanSettings c) (s.engine c) v (s.chanLines c)
            (t.chanLines c) (s.account p c)) ∧
          (∀ p, pushed p = Account.push c s.now (s.ring c) (decoded p)) ∧
          Captures (fun src => src == .index c) (fun d => if d = c then before else s.engine d) s t ∧
          (∀ p, ∃ a : Account, t.view p c = a.view ∧
            t.queue p = a.queue.toldOfSlots s p (readyNotice (fun src => src == .index c) s) ∧
            ((s.engine c).homingArmed = false → a = pushed p) ∧
            ((s.engine c).homingArmed = true →
              a = Account.position c s.now (s.chanSettings c).homeValue
                (Account.news c s.now .homed before.position (s.chanSettings c).homeValue (pushed p)))) ∧
          ((s.engine c).homingArmed = false → t.engine c = before) ∧
          ((s.engine c).homingArmed = true →
            t.engine c = { before with
              position := (s.chanSettings c).homeValue, referenced := true, homingArmed := false })) ∧
      (∀ d, d ≠ c → t.engine d = s.engine d ∧ t.ring d = s.ring d ∧ ∀ p, t.view p d = s.view p d) ∧
      SameExcept [.lines, .engines, .rings, .views, .slots, .queues, .intLine] s t

/-- The reports of SPAN and WIDTH: the rejected glitches of A are fault events; a span edge in TIMING, and the end of
a pulse, push an entry of now minus the start, which may charge views with an eviction, and are one primary event; a
first span edge, and a pulse's beginning, start a measurement; the end of a pulse in progress at entry only leads on.
Edges of the other polarity in SPAN, and edges of B and Z in both, change nothing
(R43, R48, R49, R53, R64 to R66, R76 to R79). -/
def Obligations.EdgesEndMeasurements : Prop :=
  ∀ (c : Chan) (v : Levels) (s : State), s.running → (s.chanLines c).sampled = false →
    (s.chanSettings c).mode = .span ∨ (s.chanSettings c).mode = .width →
    ∃ (t : State) (after : ModeState) (ended : Option (EntryKind × Tick)),
      exec (.lineSample (.chan c v)) s = .next t ∧
      ((s.chanSettings c).mode = .span →
        (¬ (Edged (s.chanLines c).a (t.chanLines c).a ∧
            spanSelects (s.chanSettings c).spanEdge (t.chanLines c).a.filtered = true) →
          after = (s.engine c).modeState ∧ ended = none) ∧
        (Edged (s.chanLines c).a (t.chanLines c).a →
          spanSelects (s.chanSettings c).spanEdge (t.chanLines c).a.filtered = true →
          after = .timing s.now ∧
          ((s.engine c).modeState = .waitFirst → ended = none) ∧
          ∀ start, (s.engine c).modeState = .timing start → ended = some (.period, start))) ∧
      ((s.chanSettings c).mode = .width →
        (¬ Edged (s.chanLines c).a (t.chanLines c).a → after = (s.engine c).modeState ∧ ended = none) ∧
        (Edged (s.chanLines c).a (t.chanLines c).a →
          (t.chanLines c).a.filtered = (s.chanSettings c).widthLevel →
          (s.engine c).modeState = .waitActive → after = .inPulse s.now ∧ ended = none) ∧
        (Edged (s.chanLines c).a (t.chanLines c).a →
          (t.chanLines c).a.filtered ≠ (s.chanSettings c).widthLevel →
          ((s.engine c).modeState = .waitInactive → after = .waitActive ∧ ended = none) ∧
          ∀ start, (s.engine c).modeState = .inPulse start →
            after = .waitActive ∧ ended = some (.width, start))) ∧
      t.engine c = { s.engine c with
        modeState := after
        faultTally := tallyAfter (s.engine c).faultTally
          (usedGlitches (s.chanSettings c) v (s.chanLines c)) } ∧
      (ended = none → t.ring c = s.ring c ∧
        ∀ p, t.account p c =
          (Account.fault c s.now)^[usedGlitches (s.chanSettings c) v (s.chanLines c)] (s.account p c)) ∧
      (∀ kind start, ended = some (kind, start) →
        t.ring c = (s.ring c).afterPush kind ((s.now - start).setWidth 32) s.now false false ∧
        ∀ p, t.account p c = Account.primary c s.now (Account.push c s.now (s.ring c)
          ((Account.fault c s.now)^[usedGlitches (s.chanSettings c) v (s.chanLines c)] (s.account p c)))) ∧
      (∀ d, d ≠ c → t.engine d = s.engine d ∧ t.ring d = s.ring d ∧ ∀ p, t.view p d = s.view p d) ∧
      SameExcept [.lines, .engines, .rings, .views, .queues, .intLine] s t

/-- An overrange expiry: an entry of 2^32-1 with OVERRANGE, which may charge views with an eviction, one primary
event, and back to waiting (R48, R50, R54, R64 to R66). That an expiry that is not due changes nothing is log entry 5
(DEDUCED). -/
def Obligations.OverrangeEndsMeasurement : Prop :=
  ∀ (c : Chan) (start : Tick) (kind : EntryKind) (after : ModeState) (s : State), s.running →
    ((s.engine c).modeState = .timing start ∧ kind = .period ∧ after = .waitFirst ∨
      (s.engine c).modeState = .inPulse start ∧ kind = .width ∧ after = .waitInactive) →
    (s.now = start + 4294967295 →
      ∃ t, exec (.overrangeExpiry c) s = .next t ∧
        t.ring c = (s.ring c).afterPush kind 4294967295 s.now true false ∧
        t.engine c = { s.engine c with modeState := after } ∧
        (∀ p, t.account p c =
          Account.primary c s.now (Account.push c s.now (s.ring c) (s.account p c))) ∧
        (∀ d, d ≠ c → t.engine d = s.engine d ∧ t.ring d = s.ring d ∧ ∀ p, t.view p d = s.view p d) ∧
        SameExcept [.engines, .rings, .views, .queues, .intLine] s t) ∧
    (s.now ≠ start + 4294967295 → exec (.overrangeExpiry c) s = .next s)

/-- A matching edge of a capture line, and a tick that reaches a time target, capture exactly the ARMED snapshots
that wait for them, with entries that describe the channels as they stand, and their owners are told SNAPSHOT_READY in
ascending slot order (R16, R142 to R146). That TIME_TARGET_REACHED of another tick changes nothing is log entry 5
(DEDUCED). -/
def Obligations.CaptureEventsServeTheirSnapshots : Prop :=
  ∀ s : State, s.running →
    (∀ n v, (s.cap n).sampled = false → s.edgeDue (.cap n v) = true →
      capSelects (tget s.device.capEdge n) v = true →
      ∃ t, exec (.filteredEdge (.cap n v)) s = .next t ∧ (t.cap n).line.filtered = v ∧
        Captures (fun src => src == .line n) s.engine s t ∧
        (∀ q, t.queue q = (s.queue q).toldOfSlots s q (readyNotice (fun src => src == .line n) s)) ∧
        SameExcept [.caps, .slots, .queues, .intLine] s t) ∧
    (∀ n v, (s.cap n).sampled = false → capSelects (tget s.device.capEdge n) v = false →
      ∃ t, exec (.lineSample (.cap n v)) s = .next t ∧ SameExcept [.caps] s t) ∧
    (∃ t, exec (.timeTargetReached s.now) s = .next t ∧
      Captures (fun src => src == .time s.now) s.engine s t ∧
      (∀ q, t.queue q = (s.queue q).toldOfSlots s q (readyNotice (fun src => src == .time s.now) s)) ∧
      SameExcept [.slots, .queues, .intLine] s t) ∧
    (∀ target, target ≠ s.now → exec (.timeTargetReached target) s = .next s)

/-- The arm-limit expiry of an ARMED snapshot: EXPIRED with TIMEOUT, and SNAPSHOT_EXPIRED to its owner (R147). -/
def Obligations.ArmLimitExpires : Prop :=
  ∀ (i : SlotIdx) (sn : Snapshot) (stale : List Chan) (s : State), s.running →
    (s.slot i).body = some sn → sn.phase = .armed stale (some s.now) →
    ∃ t, exec (.armLimitExpiry i) s = .next t ∧
      t.slot i = { s.slot i with body := some { sn with phase := .expired .timeout } } ∧
      (∀ j, j ≠ i → t.slot j = s.slot j) ∧
      (∀ q, t.queue q = (s.queue q).told (q == sn.owner)
        { kind := .snapshotExpired, source := .handle i (s.slot i).generation, time := s.now, value := 1,
          aux := 0 }) ∧
      SameExcept [.slots, .queues, .intLine] s t

/-- The expiry of a lease: CLAIM_REVOKED to the holder, then the pass to the oldest waiter with CLAIM_GRANTED
cause 2 and a lease at full length, or the resource left free (R102, R106, R107). That a LEASE_EXPIRY of a lease that
is not due changes nothing is log entry 5 (DEDUCED). -/
def Obligations.LeaseExpiryPassesResource : Prop :=
  ∀ (r : Resource) (h : Port) (s : State), s.running → (s.claim r).holder = some h →
    ((s.claim r).leaseDue = some s.now →
      ∃ t, exec (.leaseExpiry r) s = .next t ∧
        t.claim r =
          { holder := (s.claim r).waiters.head?
            waiters := (s.claim r).waiters.tail
            leaseDue := if (s.claim r).waiters = [] then none else s.newLease } ∧
        (∀ k, k ≠ r → t.claim k = s.claim k) ∧
        (∀ q, t.queue q =
          ((s.queue q).told (q == h)
            { kind := .claimRevoked, source := .resource r, time := s.now,
              value := s.device.leasePeriod.setWidth 32,
              aux := match (s.claim r).waiters.head? with
                | some w => BitVec.ofNat 32 w.val
                | none => 0xFFFFFFFF }).told ((s.claim r).waiters.head? == some q)
            { kind := .claimGranted, source := .resource r, time := s.now, value := 2,
              aux := BitVec.ofNat 32 h.val }) ∧
        SameExcept [.claims, .queues, .intLine] s t) ∧
    ((s.claim r).leaseDue ≠ some s.now → exec (.leaseExpiry r) s = .next s)

/-! ### Ports -/

/-- The start of a frame: the status byte shows the reset-seen and collided marks, whether the slot holds a
response, and the number of notices; the response standing in the slot is the one presented. What the port clocks out
in the frame is fixed with it: the status byte, then the response code, tag, length, payload and the CRC of R187 over
them, then zeros. Data-out carries bit 7 of the status byte at the start, keeps its bit at every rising edge of the
clock, and takes the next bit, most significant first, at every falling edge (R179, R181, R182, R187, R199, R206). -/
def Obligations.FrameStartFixesWhatIsClockedOut : Prop :=
  ∀ (p : Port) (s : State), s.running → (s.port p).recv = .idle → (s.port p).selSampled = false →
    ∃ (status : Byte) (pt : PortIf),
      exec (.frameStart p) s = .next (s.setPort p pt) ∧
      pt = { s.port p with
        recv := .receiving, selSampled := true, frameBytes := [], wholeBytes := 0, bits := [], shifted := 0
        status := status, presented := (s.port p).slot } ∧
      status.getLsbD 7 = (s.port p).resetSeen ∧ status.getLsbD 6 = (s.port p).collided ∧
      status.getLsbD 5 = (s.port p).slot.isSome ∧
      ((s.queue p).notices.length ≤ 16 → status.toNat % 32 = (s.queue p).notices.length) ∧
      sdoByte pt 0 = status ∧ (sdoLevel pt = .high ↔ (s.port p).resetSeen = true) ∧
      (∀ edges : List ClockEdge, (sdoLevel (edges.foldl (fun pt e => takeEdge e pt) pt) = .high ↔
        (sdoByte pt ((edges.filter (· = .fall)).length / 8)).getLsbD
          (7 - (edges.filter (· = .fall)).length % 8) = true)) ∧
      ((s.port p).slot = none → ∀ n, 1 ≤ n → sdoByte pt n = 0) ∧
      ∀ r, (s.port p).slot = some r →
        sdoByte pt 1 = RespCode.code r.code ∧ sdoByte pt 2 = r.tag.setWidth 8 ∧
        sdoByte pt 3 = byteOf r.payload.length ∧
        (∀ m (h : m < r.payload.length), sdoByte pt (4 + m) = r.payload[m]) ∧
        sdoByte pt (4 + r.payload.length) =
          (RespCode.code r.code :: r.tag.setWidth 8 :: byteOf r.payload.length :: r.payload).foldl
            (fun (crc b : Byte) => (fun x : Byte => if x.getLsbD 7 = true then (x <<< 1) ^^^ 0x07 else x <<< 1)^[8]
              (crc ^^^ b)) 0xFF ∧
        ∀ n, 4 + r.payload.length < n → sdoByte pt n = 0

/-- An empty frame only returns its port to IDLE, and so does the end of an abandoned frame, whatever row it is
(R179, R196). A frame that starts or ends at a tick at which the select has been sampled already is no event (log
entry 19, DEDUCED), and so is the end of a frame whose bytes do not begin with those received (log entry 7). -/
def Obligations.EmptyAndAbandonedFramesDoNothing : Prop :=
  ∀ (p : Port) (s : State),
    (InFrame p [] s →
      exec (.emptyFrame p) s =
        .next (s.setPort p { s.port p with recv := .idle, selSampled := true, bits := [], shifted := 0 })) ∧
    (s.running → (s.port p).recv = .abandoned → (s.port p).selSampled = false →
      exec (.abandonedFrameEnd p) s = .next (s.setPort p { s.port p with recv := .idle, selSampled := true }) ∧
      ∀ i bytes, i.wellFormed = true → frameOf i = some (p, bytes) →
        exec i s = .next (s.setPort p { s.port p with recv := .idle, selSampled := true })) ∧
    ((s.port p).selSampled = true →
      exec (.frameStart p) s = .next s ∧ exec (.abandonedFrameEnd p) s = .next s ∧
      ∀ i bytes, i.wellFormed = true → frameOf i = some (p, bytes) → exec i s = .next s) ∧
    ((s.port p).recv = .receiving →
      ∀ i bytes, i.wellFormed = true → frameOf i = some (p, bytes) → hasReceived (s.port p) bytes = false →
        exec i s = .next s)

/-- The end of a READ frame: the marks its status byte showed are cleared, a response clocked out whole leaves
the slot, and each lease the port holds is restarted (R104, R183 to R185, R191). A lease that falls due at this very
tick may instead be left due, so that its expiry comes before the activity (R97, R105, R112; log entry 4, DESIGN
CHOICE). -/
def Obligations.ReadFrameClearsAndRenews : Prop :=
  ∀ (p : Port) (rest : List Byte) (s : State), InFrame p (0 :: rest) s →
    ∃ t, exec (.readFrame p rest) s = .next t ∧
      (t.port p).recv = .idle ∧ (t.port p).selSampled = true ∧ (t.port p).bits = [] ∧ (t.port p).shifted = 0 ∧
      (t.port p).frameBytes = (0 :: rest).take 28 ∧
      (t.port p).wholeBytes = BitVec.ofNat 8 (min (1 + rest.length) 255) ∧
      (t.port p).resetSeen = ((s.port p).resetSeen && !(s.port p).status.getLsbD 7) ∧
      (t.port p).collided = ((s.port p).collided && !(s.port p).status.getLsbD 6) ∧
      (t.port p).slot =
        (match (s.port p).presented with
          | some r => if 5 + r.payload.length ≤ 1 + rest.length then none else (s.port p).slot
          | none => (s.port p).slot) ∧
      (∀ q, q ≠ p → t.port q = s.port q) ∧
      (∀ r, ((s.claim r).holder ≠ some p → t.claim r = s.claim r) ∧
        ((s.claim r).holder = some p →
          t.claim r =
            (if s.device.leasePeriod = 0 then s.claim r else { s.claim r with leaseDue := s.newLease }) ∨
          (s.claim r).leaseDue = some s.now ∧ t.claim r = s.claim r)) ∧
      ((∀ r, (s.claim r).leaseDue ≠ some s.now) → SameExcept [.ports, .claims] s t) ∧
      SameExcept [.ports, .claims, .freeCount] s t

/-- A command frame that fails a check is answered BAD_LENGTH or BAD_CRC with the bytes R186 names, and is not
activity; where its port's slot is still full, the error response is discarded and the collided mark set (R188). -/
def Obligations.BadFramesAreAnswered : Prop :=
  ∀ (i : Instr) (p : Port) (code : Byte) (rest : List Byte) (s : State)
    (answer : BitVec 4 → RespCode → List Byte → State), i.wellFormed = true →
    frameOf i = some (p, code :: rest) → code ≠ 0 → InFrame p (code :: rest) s →
    (SlotClears p (code :: rest) s → ∀ tag rc pl, answer tag rc pl =
      (frameEnded p (code :: rest) s).setPort p
        { (frameEnded p (code :: rest) s).port p with slot := some { code := rc, tag := tag, payload := pl } }) →
    (¬ SlotClears p (code :: rest) s → ∀ tag rc pl, answer tag rc pl =
      (frameEnded p (code :: rest) s).setPort p
        { (frameEnded p (code :: rest) s).port p with collided := true, slot := (s.port p).slot }) →
    (rest = [] → exec i s = .next (answer 0 .badLength [code, 0, 1])) ∧
    (∀ tagByte, rest = [tagByte] → exec i s = .next (answer (tagByte.setWidth 4) .badLength [code, 0, 2])) ∧
    (∀ tagByte len body, rest = tagByte :: len :: body →
      (24 < len.toNat ∨ 1 + rest.length < 4 + len.toNat →
        exec i s = .next (answer (tagByte.setWidth 4) .badLength
          [code, len, byteOf (min (1 + rest.length) 255)])) ∧
      (len.toNat ≤ 24 → 4 + len.toNat ≤ 1 + rest.length →
        body[len.toNat]? ≠ some (crc8 (code :: tagByte :: len :: body.take len.toNat)) →
        exec i s = .next (answer (tagByte.setWidth 4) .badCrc [code])) ∧
      (len.toNat ≤ 24 → 4 + len.toNat ≤ 1 + rest.length →
        body[len.toNat]? = some (crc8 (code :: tagByte :: len :: body.take len.toNat)) →
        acceptsLength code len.toNat = false →
        exec i s = .next (answer (tagByte.setWidth 4) .badLength
          [code, len, byteOf (min (1 + rest.length) 255)])))

/-- A good command frame whose port's slot is still full collides: the collided mark is set, the frame is
activity, and its command does nothing (R188). -/
def Obligations.FullSlotCollides : Prop :=
  ∀ (i : Instr) (p : Port) (code tagByte : Byte) (payload fill : List Byte) (r : Response) (s : State),
    i.wellFormed = true → frameOf i = some (p, code :: frameRest code tagByte payload fill) → code ≠ 0 →
    payload.length ≤ 24 → acceptsLength code payload.length = true →
    InFrame p (code :: frameRest code tagByte payload fill) s →
    (s.port p).slot = some r →
    ¬ SlotClears p (code :: frameRest code tagByte payload fill) s →
    ∃ t, exec i s = .next t ∧
      t = activity p (collide p (frameEnded p (code :: frameRest code tagByte payload fill) s)) ∧
      (t.port p).slot = some r ∧ (t.port p).collided = true ∧ (t.port p).recv = .idle ∧
      (∀ q, q ≠ p → t.port q = s.port q) ∧
      SameExcept [.ports, .claims, .freeCount] s t

/-- A frame on one port changes no other port's interface, unless it carries a DEVICE_RESET (R178, R195). -/
def Obligations.FramesKeepOtherPorts : Prop :=
  ∀ (i : Instr) (p q : Port) (bytes : List Byte) (s t : State), frameOf i = some (p, bytes) →
    (∀ rest, i ≠ .deviceReset p rest) → exec i s = .next t → q ≠ p → t.port q = s.port q

/-- The end of a frame decodes by its bytes: every byte sequence spells one well-formed row, which stands for
exactly those bytes, and the row a frame stands for is the row it decodes to (R179, R180, R203). -/
def Obligations.FramesDecode : Prop :=
  (∀ (p : Port) (bytes : List Byte), (decodeFrame p bytes).wellFormed = true ∧
    frameOf (decodeFrame p bytes) = some (p, bytes)) ∧
  (∀ (i : Instr) (p : Port) (bytes : List Byte), i.wellFormed = true → frameOf i = some (p, bytes) →
    decodeFrame p bytes = i)

/-- A code that is no command code is answered UNKNOWN_COMMAND with the code, and nothing changes but the port
and its activity; a row whose code is a command's is refused by the model (R189; log entry 13). -/
def Obligations.UnknownCodesAreAnswered : Prop :=
  ∀ (p : Port) (code tagByte : Byte) (payload rest : List Byte) (s : State),
    (isUnknownCode code = true → Dispatched p code tagByte payload rest s →
      exec (.unknownCommand p code rest) s =
        .next (answered p tagByte .unknownCommand [code] (frameEnded p (code :: rest) s))) ∧
    (isUnknownCode code = false → exec (.unknownCommand p code rest) s = .refused .illFormed)

/-- PING answers OK with a copy of its payload, IDENTIFY with the six fields of R193; neither changes anything
but the port, and each is activity (R192, R193). -/
def Obligations.PingAndIdentifyAnswer : Prop :=
  ∀ (p : Port) (tagByte : Byte) (payload rest : List Byte) (s : State),
    (Dispatched p 0x01 tagByte payload rest s →
      exec (.ping p rest) s = .next (answered p tagByte .ok payload (frameEnded p (0x01 :: rest) s))) ∧
    (Dispatched p 0x02 tagByte [] rest s →
      exec (.identify p rest) s = .next (answered p tagByte .ok [0x2E, 0xA2, 0x01, 1, 8, 4, byteOf p.val]
        (frameEnded p (0x02 :: rest) s)))

/-! ### Claims -/

/-- CLAIM, situation by situation; a resource above 8 or a wait value other than clear or set is refused
(R98, R99). -/
def Obligations.ClaimSituations : Prop :=
  ∀ (p : Port) (tagByte : Byte) (rest : List Byte) (s : State),
    (∀ b w : Byte, Dispatched p 0x10 tagByte [b, w] rest s → 8 < b.toNat ∨ 1 < w.toNat →
      exec (.claim p rest) s =
        .next (answered p tagByte .badArgument [] (frameEnded p (0x10 :: rest) s))) ∧
    (∀ (r : Resource) (wait : Bool), Dispatched p 0x10 tagByte [byteOf r.val, yesNo wait] rest s →
    ((s.claim r).holder = none →
      exec (.claim p rest) s = .next (answered p tagByte .granted [byteOf r.val, s.device.leasePeriod]
        ((frameEnded p (0x10 :: rest) s).setClaim r
          { s.claim r with holder := some p, leaseDue := s.newLease }))) ∧
    ((s.claim r).holder = some p →
      exec (.claim p rest) s = .next (answered p tagByte .held [byteOf r.val, s.device.leasePeriod]
        (if s.device.leasePeriod = 0 then frameEnded p (0x10 :: rest) s
          else (frameEnded p (0x10 :: rest) s).setClaim r { s.claim r with leaseDue := s.newLease }))) ∧
    (∀ h, (s.claim r).holder = some h → h ≠ p →
      (p ∈ (s.claim r).waiters →
        exec (.claim p rest) s = .next (answered p tagByte .queued
          [byteOf r.val, byteOf h.val, byteOf ((s.claim r).waiters.idxOf p + 1)]
          (frameEnded p (0x10 :: rest) s))) ∧
      (p ∉ (s.claim r).waiters → wait = true →
        exec (.claim p rest) s = .next (answered p tagByte .queued
          [byteOf r.val, byteOf h.val, byteOf ((s.claim r).waiters.length + 1)]
          ((frameEnded p (0x10 :: rest) s).setClaim r
            { s.claim r with waiters := (s.claim r).waiters ++ [p] }))) ∧
      (p ∉ (s.claim r).waiters → wait = false →
        exec (.claim p rest) s = .next (answered p tagByte .busy [byteOf r.val, byteOf h.val]
          (frameEnded p (0x10 :: rest) s)))))

/-- RELEASE, situation by situation: the holder's passes the resource to the oldest waiter with CLAIM_GRANTED
cause 1 or leaves it free, a waiter's takes it off the list, any other changes nothing (R101, R102). -/
def Obligations.ReleaseSituations : Prop :=
  ∀ (p : Port) (tagByte : Byte) (rest : List Byte) (s : State),
    (∀ b : Byte, Dispatched p 0x11 tagByte [b] rest s → 8 < b.toNat →
      exec (.release p rest) s =
        .next (answered p tagByte .badArgument [] (frameEnded p (0x11 :: rest) s))) ∧
    (∀ r : Resource, Dispatched p 0x11 tagByte [byteOf r.val] rest s →
    ((s.claim r).holder = some p →
      ∃ t, exec (.release p rest) s = .next (answered p tagByte .ok
          [byteOf r.val, portCode (s.claim r).waiters.head?] t) ∧
        t.claim r =
          { holder := (s.claim r).waiters.head?
            waiters := (s.claim r).waiters.tail
            leaseDue := if (s.claim r).waiters = [] then none else s.newLease } ∧
        (∀ k, k ≠ r → t.claim k = s.claim k) ∧
        (∀ q, t.queue q = (s.queue q).told ((s.claim r).waiters.head? == some q)
          { kind := .claimGranted, source := .resource r, time := s.now, value := 1,
            aux := BitVec.ofNat 32 p.val }) ∧
        SameExcept [.claims, .queues, .intLine] (frameEnded p (0x11 :: rest) s) t) ∧
    ((s.claim r).holder ≠ some p → p ∈ (s.claim r).waiters →
      exec (.release p rest) s = .next (answered p tagByte .withdrawn [byteOf r.val]
        ((frameEnded p (0x11 :: rest) s).setClaim r
          { s.claim r with waiters := (s.claim r).waiters.filter (fun q => q != p) }))) ∧
    ((s.claim r).holder ≠ some p → p ∉ (s.claim r).waiters →
      exec (.release p rest) s = .next (answered p tagByte .notHeld
        [byteOf r.val, portCode (s.claim r).holder] (frameEnded p (0x11 :: rest) s))))

/-- The six gated commands of a port that does not hold the resource are refused NOT_CLAIMED, with the resource
and its holder, whatever their other arguments, and change nothing (R111). -/
def Obligations.GatedCommandsOfOthersAreRefused : Prop :=
  ∀ (p : Port) (tagByte : Byte) (payload rest : List Byte) (s : State),
    (∀ i code, (i = .setChannel p rest ∧ code = 0x20 ∨ i = .preset p rest ∧ code = 0x30 ∨
        i = .home p rest ∧ code = 0x31 ∨ i = .homeCancel p rest ∧ code = 0x32) →
      Dispatched p code tagByte payload rest s →
      (∀ c : Chan, payload.head? = some (byteOf c.val) →
        (s.claim (c.castLE (by decide))).holder ≠ some p →
        exec i s = .next (answered p tagByte .notClaimed
          [byteOf c.val, portCode (s.claim (c.castLE (by decide))).holder]
          (frameEnded p (code :: rest) s))) ∧
      (∀ b, payload.head? = some b → 8 ≤ b.toNat →
        exec i s = .next (answered p tagByte .notClaimed [b, 0xFF] (frameEnded p (code :: rest) s)))) ∧
    (∀ i code, (i = .setDevice p rest ∧ code = 0x22 ∨ i = .deviceReset p rest ∧ code = 0x71) →
      Dispatched p code tagByte payload rest s → (s.claim 8).holder ≠ some p →
      exec i s = .next (answered p tagByte .notClaimed [8, portCode (s.claim 8).holder]
        (frameEnded p (code :: rest) s)))

/-- A frame changes shared settings for their holders alone: one that changes a channel's settings or the device
settings comes from the holder of that resource, or, as a DEVICE_RESET, from the holder of DEV
(R111, R195). -/
def Obligations.SettingsChangeByHoldersAlone : Prop :=
  ∀ (i : Instr) (p : Port) (bytes : List Byte) (s t : State), frameOf i = some (p, bytes) →
    exec i s = .next t →
    (∀ c : Chan, t.chanSettings c ≠ s.chanSettings c →
      (∃ rest, i = .setChannel p rest) ∧ (s.claim (c.castLE (by decide))).holder = some p ∨
      (∃ rest, i = .deviceReset p rest) ∧ (s.claim 8).holder = some p) ∧
    (t.device ≠ s.device →
      ((∃ rest, i = .setDevice p rest) ∨ ∃ rest, i = .deviceReset p rest) ∧ (s.claim 8).holder = some p)

/-! ### Settings -/

/-- A SET_CHANNEL in which no structural field differs is no reconfiguration: the record is stored and the
generation stays; on a QUAD channel a changed quadrant or polarity recomputes the index condition, and a
quadrant set to NONE also disarms homing and expires the INDEX snapshots of the channel, with SNAPSHOT_EXPIRED
SOURCE_LOST aux 3 to their owners (R30, R35, R118 to R122, R149). -/
def Obligations.TuningChangeKeepsCounts : Prop :=
  ∀ (p : Port) (tagByte : Byte) (c : Chan) (new : ChanSettings) (rest : List Byte) (s : State),
    Dispatched p 0x20 tagByte (byteOf c.val :: chanSettingsBytes new) rest s →
    (s.claim (c.castLE (by decide))).holder = some p →
    { s.chanSettings c with
      indexQuadrant := new.indexQuadrant, indexPolarity := new.indexPolarity, homeValue := new.homeValue }
      = new →
    ∃ t, exec (.setChannel p rest) s =
        .next (answered p tagByte .ok (le2 (s.engine c).generation ++ [0]) t) ∧
      t.chanSettings c = new ∧ (∀ d, d ≠ c → t.chanSettings d = s.chanSettings d ∧ t.engine d = s.engine d) ∧
      t.engine c =
        (if new.mode = .quad ∧ ((s.chanSettings c).indexQuadrant ≠ new.indexQuadrant ∨
            (s.chanSettings c).indexPolarity ≠ new.indexPolarity) then
          { s.engine c with
            indexCond :=
              (match new.indexQuadrant with
                | some q => decide (filteredAB (s.chanLines c) = q ∧
                    (s.chanLines c).z.filtered = new.indexPolarity)
                | none => false)
            homingArmed := (s.engine c).homingArmed &&
              !decide ((s.chanSettings c).indexQuadrant ≠ none ∧ new.indexQuadrant = none) }
        else s.engine c) ∧
      (∀ i, t.slot i =
        match s.armedSnap i with
        | some sn =>
          if new.mode = .quad ∧ (s.chanSettings c).indexQuadrant ≠ none ∧ new.indexQuadrant = none ∧
              sn.source = .index c then
            { s.slot i with body := some { sn with phase := .expired .sourceLost } }
          else s.slot i
        | none => s.slot i) ∧
      (∀ q, t.queue q = (s.queue q).toldOfSlots s q (lostNotice (fun src =>
        if new.mode = .quad ∧ (s.chanSettings c).indexQuadrant ≠ none ∧ new.indexQuadrant = none ∧
            src = .index c then some 3 else none) s)) ∧
      SameExcept [.settings, .engines, .slots, .queues, .intLine] (frameEnded p (0x20 :: rest) s) t

/-- A structural change reconfigures the channel: counts and marks are zeroed and the entry state of the new
mode is taken from the kept filtered levels, the generation grows by 1, the ring is emptied with its numbering
kept, every view is zeroed with its cursor at the next sequence number, and ARMED snapshots lose an INDEX
source that cannot fire, with SNAPSHOT_EXPIRED SOURCE_LOST aux 2 or 3 to their owners after the RECONFIGURED notices,
or take the stale mark (R14, R71, R92, R123 to R126, R149, R151). That the index condition is FALSE outside QUAD, to
which R22 gives no value there, is log entry 9 (DESIGN CHOICE). -/
def Obligations.StructuralChangeReconfigures : Prop :=
  ∀ (p : Port) (tagByte : Byte) (c : Chan) (new : ChanSettings) (rest : List Byte) (s : State),
    Dispatched p 0x20 tagByte (byteOf c.val :: chanSettingsBytes new) rest s →
    (s.claim (c.castLE (by decide))).holder = some p →
    { s.chanSettings c with
      indexQuadrant := new.indexQuadrant, indexPolarity := new.indexPolarity, homeValue := new.homeValue }
      ≠ new →
    ∃ t, exec (.setChannel p rest) s =
        .next (answered p tagByte .ok (le2 ((s.engine c).generation + 1) ++ [1]) t) ∧
      t.chanSettings c = new ∧
      (t.engine c).generation = (s.engine c).generation + 1 ∧ (t.engine c).position = 0 ∧
      (t.engine c).runningCount = 0 ∧ (t.engine c).faultTally = 0 ∧ (t.engine c).referenced = false ∧
      (t.engine c).homingArmed = false ∧
      (t.engine c).indexCond = decide (new.mode = .quad ∧
        new.indexQuadrant = some ⟨(s.chanLines c).a.filtered, (s.chanLines c).b.filtered⟩ ∧
        (s.chanLines c).z.filtered = new.indexPolarity) ∧
      (t.engine c).modeState =
        (match new.mode with
          | .off => .none
          | .quad => .quad ⟨(s.chanLines c).a.filtered, (s.chanLines c).b.filtered⟩
          | .tally => gateState new.gate (s.chanLines c).b.filtered
          | .span => .waitFirst
          | .width => if (s.chanLines c).a.filtered = new.widthLevel then .waitInactive else .waitActive) ∧
      t.chanLines c = { s.chanLines c with
        a := { (s.chanLines c).a with count := 0 }, b := { (s.chanLines c).b with count := 0 }
        z := { (s.chanLines c).z with count := 0 } } ∧
      t.ring c = { entries := [], next := (s.ring c).next } ∧
      (∀ q, t.view q c = { s.view q c with
        eventDelta := 0, eventSat := false, faultDelta := 0, faultSat := false, since := s.now
        eventAbove := false, faultAbove := false, cursor := (s.ring c).next
        windowState :=
          if (s.view q c).windowOn = true ∧ new.mode = .quad then
            some (windowStateOf (s.view q c).low (s.view q c).high 0)
          else none }) ∧
      (∀ i, t.slot i =
        match (s.slot i).body with
        | some sn =>
          match sn.phase with
          | .armed stale due =>
            if sn.source = .index c ∧ (new.mode ≠ .quad ∨ new.indexQuadrant = none) then
              { s.slot i with body := some { sn with phase := .expired .sourceLost } }
            else if c ∈ sn.channels then
              { s.slot i with body := some { sn with
                phase := .armed (sn.channels.filter (fun d => decide (d = c ∨ d ∈ stale))) due } }
            else s.slot i
          | _ => s.slot i
        | none => s.slot i) ∧
      (∀ q, t.queue q = Queue.toldOfSlots s q (lostNotice (fun src =>
            if src = .index c then
              if new.mode ≠ .quad then some 2 else if new.indexQuadrant = none then some 3 else none
            else none) s)
        ((s.queue q).told
          (decide ((s.view q c).eventDelta ≠ 0 ∨ (s.view q c).faultDelta ≠ 0 ∨ s.unread q c ≠ 0 ∨
            (s.view q c).subs.getLsbD 6 = true))
          { kind := .reconfigured, source := .channel c, time := s.now, value := (s.view q c).eventDelta
            aux := reconfiguredAux (s.view q c).faultDelta (s.unread q c) (s.view q c).eventSat
              (s.view q c).faultSat (s.chanSettings c).mode new.mode })) ∧
      (∀ d, d ≠ c → t.chanSettings d = s.chanSettings d ∧ t.engine d = s.engine d ∧
        t.chanLines d = s.chanLines d ∧ t.ring d = s.ring d ∧ ∀ q, t.view q d = s.view q d) ∧
      SameExcept [.settings, .lines, .engines, .rings, .views, .slots, .queues, .intLine]
        (frameEnded p (0x20 :: rest) s) t

/-- GET_CHANNEL answers the stored record with the generation, GET_DEVICE the device record; neither changes
anything, and a channel above 7 is refused (R128, R133; section 11.4). -/
def Obligations.StoredRecordsAreReported : Prop :=
  ∀ (p : Port) (tagByte : Byte) (rest : List Byte) (s : State),
    (∀ b : Byte, Dispatched p 0x21 tagByte [b] rest s → 7 < b.toNat →
      exec (.getChannel p rest) s =
        .next (answered p tagByte .badArgument [] (frameEnded p (0x21 :: rest) s))) ∧
    (∀ c : Chan, Dispatched p 0x21 tagByte [byteOf c.val] rest s →
      exec (.getChannel p rest) s = .next (answered p tagByte .ok
        (byteOf c.val :: chanSettingsBytes (s.chanSettings c) ++ le2 (s.engine c).generation)
        (frameEnded p (0x21 :: rest) s))) ∧
    (Dispatched p 0x23 tagByte [] rest s →
      exec (.getDevice p rest) s = .next (answered p tagByte .ok
        [s.device.leasePeriod, s.device.quota, CapEdge.code (tget s.device.capEdge 0),
          CapEdge.code (tget s.device.capEdge 1), byteOf s.device.lineFilterStep.val]
        (frameEnded p (0x23 :: rest) s)))

/-- READ_CHANNEL answers the live state of the channel, with the latest ring entry or 17 zero bytes, and changes
nothing; a channel above 7 is refused (R129, R130; section 11.4). -/
def Obligations.ReadChannelReportsLiveState : Prop :=
  ∀ (p : Port) (tagByte : Byte) (rest : List Byte) (s : State),
    (∀ b : Byte, Dispatched p 0x33 tagByte [b] rest s → 7 < b.toNat →
      exec (.readChannel p rest) s =
        .next (answered p tagByte .badArgument [] (frameEnded p (0x33 :: rest) s))) ∧
    ∀ c : Chan, Dispatched p 0x33 tagByte [byteOf c.val] rest s →
    exec (.readChannel p rest) s = .next (answered p tagByte .ok
      ([byteOf c.val, Mode.code (s.chanSettings c).mode, ModeState.code (s.engine c).modeState,
        Level.code (s.chanLines c).a.filtered + 2 * Level.code (s.chanLines c).b.filtered
          + 4 * Level.code (s.chanLines c).z.filtered,
        yesNo (s.engine c).referenced + 2 * yesNo (s.engine c).homingArmed]
        ++ le4 (if (s.chanSettings c).mode = .quad then (s.engine c).position
            else if (s.chanSettings c).mode = .tally then (s.engine c).runningCount else 0)
        ++ le2 (s.engine c).faultTally ++ le2 (s.engine c).generation ++ le4 (s.ring c).next
        ++ (match (s.ring c).entries.getLast? with
            | some e => 1 :: ringEntryBytes e
            | none => List.replicate 17 0)
        ++ le6 s.now)
      (frameEnded p (0x33 :: rest) s))

/-- SET_DEVICE of the DEV holder with a quota of 1 to 24 stores the record and acts on each changed field: the
leases of all held resources, the LINE snapshots of a selection set to OFF, whose owners are told SNAPSHOT_EXPIRED
SOURCE_LOST aux 1, the counts of the capture lines (R15, R17, R109, R132, R149). -/
def Obligations.SetDeviceActsOnChangedFields : Prop :=
  ∀ (p : Port) (tagByte : Byte) (new : DeviceSettings) (rest : List Byte) (s : State),
    Dispatched p 0x22 tagByte (deviceSettingsBytes new) rest s → (s.claim 8).holder = some p →
    1 ≤ new.quota.toNat → new.quota.toNat ≤ 24 →
    ∃ t, exec (.setDevice p rest) s = .next (answered p tagByte .ok [] t) ∧ t.device = new ∧
      (∀ r, t.claim r =
        if s.device.leasePeriod ≠ new.leasePeriod ∧ (s.claim r).holder.isSome = true then
          { s.claim r with
            leaseDue :=
              if new.leasePeriod = 0 then none
              else some (s.now + BitVec.ofNat 48 (new.leasePeriod.toNat * 160000)) }
        else s.claim r) ∧
      (∀ n, t.cap n =
        if s.device.lineFilterStep ≠ new.lineFilterStep then
          { s.cap n with line := { (s.cap n).line with count := 0 } }
        else s.cap n) ∧
      (∀ i, t.slot i =
        match s.armedSnap i with
        | some sn =>
          match sn.source with
          | .line n =>
            if tget s.device.capEdge n ≠ .off ∧ tget new.capEdge n = .off then
              { s.slot i with body := some { sn with phase := .expired .sourceLost } }
            else s.slot i
          | _ => s.slot i
        | none => s.slot i) ∧
      (∀ q, t.queue q = (s.queue q).toldOfSlots s q (lostNotice (fun src =>
        match src with
        | .line n => if tget s.device.capEdge n ≠ .off ∧ tget new.capEdge n = .off then some 1 else none
        | _ => none) s)) ∧
      SameExcept [.device, .claims, .slots, .caps, .queues, .intLine] (frameEnded p (0x22 :: rest) s) t

/-- SET_PORT stores the issuing port's wake set and evaluates its line at once (R170, R171). -/
def Obligations.SetPortStoresWakeSet : Prop :=
  ∀ (p : Port) (tagByte : Byte) (w : Half) (rest : List Byte) (s : State),
    Dispatched p 0x24 tagByte (le2 w) rest s → w.toNat < 4096 →
    ∃ level,
      exec (.setPort p rest) s = .next (answered p tagByte .ok
        (le2 w ++ [byteOf (s.queue p).notices.length, Level.code level])
        (((frameEnded p (0x24 :: rest) s).setWakeSet p (w.setWidth 12)).setIntLevel p level)) ∧
      (level = .low ↔ ∃ n ∈ (s.queue p).notices, w.getLsbD n.kind.code = true)

/-! ### Position and homing -/

/-- PRESET of the holder on a QUAD channel: the position is the value, a set referenced mark is cleared with
REFERENCE_LOST cause 2, then each enabled window takes the state of the new position with a WINDOW notice where
it changes; the response carries the position before. In another mode it is refused WRONG_MODE
(R37, R39, R88, R91). -/
def Obligations.PresetSetsPosition : Prop :=
  ∀ (p : Port) (tagByte : Byte) (c : Chan) (v : Word) (rest : List Byte) (s : State),
    Dispatched p 0x30 tagByte (byteOf c.val :: le4 v) rest s →
    (s.claim (c.castLE (by decide))).holder = some p →
    ((s.chanSettings c).mode ≠ .quad →
      exec (.preset p rest) s = .next (answered p tagByte .wrongMode [] (frameEnded p (0x30 :: rest) s))) ∧
    ((s.chanSettings c).mode = .quad →
      ∃ t, exec (.preset p rest) s = .next (answered p tagByte .ok (le4 (s.engine c).position) t) ∧
        t.engine c = { s.engine c with position := v, referenced := false } ∧
        (∀ d, d ≠ c → t.engine d = s.engine d) ∧
        (∀ q d, t.view q d =
          if d = c ∧ (s.view q c).windowOn = true then
            { s.view q c with windowState := some (windowStateOf (s.view q c).low (s.view q c).high v) }
          else s.view q d) ∧
        (∀ q, t.queue q =
          ((s.queue q).told ((s.engine c).referenced && hasKind (s.view q c).subs .referenceLost)
            { kind := .referenceLost, source := .channel c, time := s.now, value := v, aux := 2 }).told
            ((s.view q c).windowOn && hasKind (s.view q c).subs .window &&
              decide ((s.view q c).windowState ≠
                some (windowStateOf (s.view q c).low (s.view q c).high v)))
            { kind := .window, source := .channel c, time := s.now, value := v
              aux := windowAux (s.view q c).windowState
                (some (windowStateOf (s.view q c).low (s.view q c).high v)) }) ∧
        SameExcept [.engines, .views, .queues, .intLine] (frameEnded p (0x30 :: rest) s) t)

/-- HOME of the holder arms homing on a QUAD channel with an index quadrant and is refused WRONG_MODE on any
other; HOME_CANCEL disarms it in any mode and tells whether it was armed (R33, R36). -/
def Obligations.HomeArmsAndCancelDisarms : Prop :=
  ∀ (p : Port) (tagByte : Byte) (c : Chan) (rest : List Byte) (s : State),
    (s.claim (c.castLE (by decide))).holder = some p →
    (Dispatched p 0x31 tagByte [byteOf c.val] rest s →
      ((s.chanSettings c).mode = .quad ∧ (s.chanSettings c).indexQuadrant ≠ none →
        exec (.home p rest) s = .next (answered p tagByte .ok []
          ((frameEnded p (0x31 :: rest) s).setEngine c { s.engine c with homingArmed := true }))) ∧
      (¬ ((s.chanSettings c).mode = .quad ∧ (s.chanSettings c).indexQuadrant ≠ none) →
        exec (.home p rest) s =
          .next (answered p tagByte .wrongMode [] (frameEnded p (0x31 :: rest) s)))) ∧
    (Dispatched p 0x32 tagByte [byteOf c.val] rest s →
      exec (.homeCancel p rest) s = .next (answered p tagByte .ok
        [if (s.engine c).homingArmed then 1 else 0]
        ((frameEnded p (0x32 :: rest) s).setEngine c { s.engine c with homingArmed := false })))

/-! ### Views and rings -/

/-- TAKE answers the deltas with their saturated marks, since and now, and zeroes the issuing port's view, of
which every other field stays; PEEK_VIEW answers every field of that view, and now, and changes nothing; a
channel above 7 is refused (R75, R81, R83). -/
def Obligations.TakeAndPeekReportView : Prop :=
  ∀ (p : Port) (tagByte : Byte) (rest : List Byte) (s : State),
    (∀ b : Byte, 7 < b.toNat →
      (Dispatched p 0x40 tagByte [b] rest s → exec (.take p rest) s =
        .next (answered p tagByte .badArgument [] (frameEnded p (0x40 :: rest) s))) ∧
      (Dispatched p 0x41 tagByte [b] rest s → exec (.peekView p rest) s =
        .next (answered p tagByte .badArgument [] (frameEnded p (0x41 :: rest) s)))) ∧
    (∀ c : Chan, Dispatched p 0x40 tagByte [byteOf c.val] rest s →
    exec (.take p rest) s = .next (answered p tagByte .ok
      (le4 (s.view p c).eventDelta ++ le2 (s.view p c).faultDelta
        ++ [yesNo (s.view p c).eventSat + 2 * yesNo (s.view p c).faultSat]
        ++ le6 (s.view p c).since ++ le6 s.now)
      ((frameEnded p (0x40 :: rest) s).setView p c
        { s.view p c with
          eventDelta := 0, eventSat := false, faultDelta := 0, faultSat := false, eventAbove := false
          faultAbove := false, since := s.now }))) ∧
    ∀ c : Chan, Dispatched p 0x41 tagByte [byteOf c.val] rest s →
    exec (.peekView p rest) s = .next (answered p tagByte .ok
      (le4 (s.view p c).eventDelta ++ le2 (s.view p c).faultDelta
        ++ [yesNo (s.view p c).eventSat + 2 * yesNo (s.view p c).faultSat
            + 4 * yesNo (s.view p c).eventAbove + 8 * yesNo (s.view p c).faultAbove
            + 16 * yesNo (s.view p c).windowOn + 32 * yesNo (s.view p c).overrun]
        ++ le6 (s.view p c).since ++ le4 (s.view p c).eventThreshold ++ le2 (s.view p c).faultThreshold
        ++ le4 (s.view p c).low ++ le4 (s.view p c).high
        ++ [windowCode (s.view p c).windowState, (s.view p c).subs.setWidth 8]
        ++ le4 (s.view p c).cursor ++ le2 (s.view p c).missed ++ le6 s.now)
      (frameEnded p (0x41 :: rest) s))

/-- SET_VIEW stores the six settings, brings the above marks into line with at most one THRESHOLD and then at
most one FAULT_THRESHOLD, each if subscribed, and recomputes the window state without a notice
(R84 to R86, R91). -/
def Obligations.SetViewStoresSettings : Prop :=
  ∀ (p : Port) (tagByte : Byte) (c : Chan) (et : Word) (ft : Half) (on : Bool) (low high : Word)
    (subs : BitVec 7) (rest : List Byte) (s : State),
    Dispatched p 0x42 tagByte (byteOf c.val :: le4 et ++ le2 ft ++ [yesNo on] ++ le4 low ++ le4 high
      ++ [subs.setWidth 8]) rest s →
    low.toInt ≤ high.toInt →
    ∃ t v, exec (.setView p rest) s = .next (answered p tagByte .ok
        [yesNo v.eventAbove + 2 * yesNo v.faultAbove, windowCode v.windowState] t) ∧
      v = { s.view p c with
        eventThreshold := et, faultThreshold := ft, windowOn := on, low := low, high := high, subs := subs
        eventAbove := decide (et ≠ 0 ∧ et < (s.view p c).eventDelta)
        faultAbove := decide (ft ≠ 0 ∧ ft < (s.view p c).faultDelta)
        windowState :=
          if on = true ∧ (s.chanSettings c).mode = .quad then
            some (windowStateOf low high (s.engine c).position)
          else none } ∧
      t.view p c = v ∧ (∀ q d, ¬ (q = p ∧ d = c) → t.view q d = s.view q d) ∧
      (∀ q, t.queue q = if q = p then
          ((s.queue p).told (v.eventAbove && !(s.view p c).eventAbove && hasKind subs .threshold)
            { kind := .threshold, source := .channel c, time := s.now, value := (s.view p c).eventDelta
              aux := et }).told
            (v.faultAbove && !(s.view p c).faultAbove && hasKind subs .faultThreshold)
            { kind := .faultThreshold, source := .channel c, time := s.now
              value := (s.view p c).faultDelta.setWidth 32, aux := ft.setWidth 32 }
        else s.queue q) ∧
      SameExcept [.views, .queues, .intLine] (frameEnded p (0x42 :: rest) s) t

/-- DRAIN with a max of 1 to 4 answers the missed count and the oldest unread entries, as many as max and the
unread count allow, and moves the cursor over them; the missed count and the overrun mark are cleared. A
channel above 7 and any other max are refused (R63, R68). -/
def Obligations.DrainReturnsUnreadEntries : Prop :=
  ∀ (p : Port) (tagByte max : Byte) (rest : List Byte) (s : State),
    (∀ b : Byte, Dispatched p 0x43 tagByte [b, max] rest s →
      7 < b.toNat ∨ max.toNat = 0 ∨ 4 < max.toNat →
      exec (.drain p rest) s =
        .next (answered p tagByte .badArgument [] (frameEnded p (0x43 :: rest) s))) ∧
    ∀ c : Chan, Dispatched p 0x43 tagByte [byteOf c.val, max] rest s → 1 ≤ max.toNat → max.toNat ≤ 4 →
    RingInv s →
    ∃ k unread : Nat, unread = (s.unread p c).toNat ∧ k = min max.toNat unread ∧
      exec (.drain p rest) s = .next (answered p tagByte .ok
        (le2 (s.view p c).missed ++ [byteOf k, byteOf (unread - k)]
          ++ le4 ((s.view p c).cursor + BitVec.ofNat 32 k)
          ++ (((((s.ring c).entries.drop ((s.ring c).entries.length - unread)).take k).map
              ringEntryBytes).flatten))
        ((frameEnded p (0x43 :: rest) s).setView p c
          { s.view p c with
            cursor := (s.view p c).cursor + BitVec.ofNat 32 k, missed := 0, overrun := false }))

/-- The view commands of a port reach no other port's views and no shared state but the claims' activity
(R68, R75, R81, R83, R84). -/
def Obligations.ViewCommandsReachOwnViewsOnly : Prop :=
  ∀ (i : Instr) (p : Port) (rest : List Byte) (s t : State),
    (i = .take p rest ∨ i = .peekView p rest ∨ i = .setView p rest ∨ i = .drain p rest) →
    exec i s = .next t →
    (∀ q c, q ≠ p → t.view q c = s.view q c) ∧
    SameExcept [.views, .ports, .claims, .queues, .intLine, .freeCount] s t

/-! ### Snapshots -/

/-- A SNAP_ARM that passes its checks takes the lowest-numbered FREE slot with its generation raised by 1; an
IMMEDIATE snapshot and a TIME snapshot with a passed target are captured at once, the latter with LATE and
SNAPSHOT_READY, with entries that describe the channels as they stand; any other is ARMED with its arm limit running
(R138 to R141, R144 to R146). -/
def Obligations.SnapArmTakesLowestSlot : Prop :=
  ∀ (p : Port) (tagByte : Byte) (pl : List Byte) (cs : List Chan) (i : SlotIdx) (rest : List Byte)
    (s : State),
    Dispatched p 0x50 tagByte pl rest s → ListsChannels pl cs →
    s.heldCount p < s.device.quota.toNat → LowestFree i s →
    ∀ src : SnapSource,
      (byteAt pl 9 = 0 ∧ src = .immediate ∨
        (∃ n, byteAt pl 9 = 1 ∧ src = .line n ∧ byteAt pl 10 = byteOf n.val ∧
          tget s.device.capEdge n ≠ .off) ∨
        (∃ c, byteAt pl 9 = 2 ∧ src = .index c ∧ byteAt pl 10 = byteOf c.val ∧
          (s.chanSettings c).mode = .quad ∧ (s.chanSettings c).indexQuadrant ≠ none) ∨
        byteAt pl 9 = 3 ∧ src = .time (tickAt pl 11)) →
      ∃ (t : State) (sn : Snapshot) (atOnce : Bool) (es : List SnapEntry), EntriesOf es cs [] s.engine s ∧
        (atOnce = true ↔ src = .immediate ∨ ∃ target, src = .time target ∧ (s.now - target).toNat < 2 ^ 47) ∧
        sn = { owner := p, channels := cs, source := src, armTime := s.now, armLimit := halfAt pl 17
               late := atOnce && src != .immediate
               phase := if atOnce then .captured s.now es
                 else .armed [] (if halfAt pl 17 = 0 then none
                   else some (s.now + BitVec.ofNat 48 ((halfAt pl 17).toNat * 16000))) } ∧
        exec (.snapArm p rest) s = .next (answered p tagByte .ok
          ([byteOf i.val, (s.slot i).generation + 1, if atOnce then 2 else 1, yesNo sn.late]
            ++ le6 s.now) t) ∧
        t.slot i = { generation := (s.slot i).generation + 1, body := some sn } ∧
        (∀ j, j ≠ i → t.slot j = s.slot j) ∧
        t.heldCount p = s.heldCount p + 1 ∧ (∀ q, q ≠ p → t.heldCount q = s.heldCount q) ∧
        (∀ q, t.queue q = (s.queue q).told (q == p && sn.late)
          { kind := .snapshotReady, source := .handle i ((s.slot i).generation + 1), time := s.now
            value := 4, aux := 0 }) ∧
        SameExcept [.slots, .held, .queues, .intLine] (frameEnded p (0x50 :: rest) s) t

/-- The refusals of SNAP_ARM, each when the checks before it pass: a bad list or source, a source channel that
gives no index, the quota, a full store; none changes anything (R138, R141). -/
def Obligations.SnapArmRefusals : Prop :=
  ∀ (p : Port) (tagByte : Byte) (pl rest : List Byte) (s : State), Dispatched p 0x50 tagByte pl rest s →
    ((∀ cs, ¬ ListsChannels pl cs) →
      exec (.snapArm p rest) s = .next (answered p tagByte .badArgument [] (frameEnded p (0x50 :: rest) s))) ∧
    (∀ cs, ListsChannels pl cs →
      (3 < (byteAt pl 9).toNat ∨ byteAt pl 9 = 1 ∧ 1 < (byteAt pl 10).toNat ∨
        (∃ n : CapIdx, byteAt pl 9 = 1 ∧ byteAt pl 10 = byteOf n.val ∧ tget s.device.capEdge n = .off) ∨
        byteAt pl 9 = 2 ∧ 7 < (byteAt pl 10).toNat →
        exec (.snapArm p rest) s =
          .next (answered p tagByte .badArgument [] (frameEnded p (0x50 :: rest) s))) ∧
      (∀ c : Chan, byteAt pl 9 = 2 → byteAt pl 10 = byteOf c.val →
        ¬ ((s.chanSettings c).mode = .quad ∧ (s.chanSettings c).indexQuadrant ≠ none) →
        exec (.snapArm p rest) s =
          .next (answered p tagByte .wrongMode [] (frameEnded p (0x50 :: rest) s))) ∧
      (byteAt pl 9 = 0 ∨ byteAt pl 9 = 3 ∨
        (∃ n : CapIdx, byteAt pl 9 = 1 ∧ byteAt pl 10 = byteOf n.val ∧ tget s.device.capEdge n ≠ .off) ∨
        (∃ c : Chan, byteAt pl 9 = 2 ∧ byteAt pl 10 = byteOf c.val ∧ (s.chanSettings c).mode = .quad ∧
          (s.chanSettings c).indexQuadrant ≠ none) →
        (s.device.quota.toNat ≤ s.heldCount p →
          exec (.snapArm p rest) s = .next (answered p tagByte .quota
            [byteOf (s.heldCount p), s.device.quota] (frameEnded p (0x50 :: rest) s))) ∧
        (s.heldCount p < s.device.quota.toNat → (∀ i, (s.slot i).body ≠ none) →
          exec (.snapArm p rest) s = .next (answered p tagByte .storeFull
            [byteOf (s.heldCount p), s.device.quota] (frameEnded p (0x50 :: rest) s)))))

/-- SNAP_READ and SNAP_DISCARD of a current handle of the issuing port: the record of a CAPTURED or EXPIRED
slot, by the layout of R205, or the state the slot was in, is answered and the slot is freed; SNAP_READ of an ARMED
slot is NOT_READY; a slot that is FREE or has another generation is UNKNOWN_SNAPSHOT, another port's is NOT_OWNER
(R153, R155, R205). -/
def Obligations.HandlesAreReadAndDiscarded : Prop :=
  ∀ (p : Port) (tagByte : Byte) (i : SlotIdx) (g : Byte) (rest : List Byte) (s : State),
    (∀ sn, (s.slot i).body = some sn → (s.slot i).generation = g → sn.owner = p →
      (Dispatched p 0x51 tagByte [byteOf i.val, g] rest s →
        (s.armedSnap i = none → ∃ bs, RecordBytes i g sn bs ∧
          exec (.snapRead p rest) s = .next (answered p tagByte .ok bs
            (((frameEnded p (0x51 :: rest) s).setSlot i { generation := g, body := none }).setHeldCount p
              (s.heldCount p - 1)))) ∧
        (s.armedSnap i ≠ none →
          exec (.snapRead p rest) s =
            .next (answered p tagByte .notReady [] (frameEnded p (0x51 :: rest) s)))) ∧
      (Dispatched p 0x52 tagByte [byteOf i.val, g] rest s →
        exec (.snapDiscard p rest) s = .next (answered p tagByte .ok
          [match sn.phase with
            | .armed _ _ => 1
            | .captured _ _ => 2
            | .expired _ => 3]
          (((frameEnded p (0x52 :: rest) s).setSlot i { generation := g, body := none }).setHeldCount p
            (s.heldCount p - 1))))) ∧
    (∀ rc, (((s.slot i).body = none ∨ (s.slot i).generation ≠ g) ∧ rc = RespCode.unknownSnapshot ∨
        (∃ sn, (s.slot i).body = some sn ∧ (s.slot i).generation = g ∧ sn.owner ≠ p) ∧
          rc = RespCode.notOwner) →
      (Dispatched p 0x51 tagByte [byteOf i.val, g] rest s →
        exec (.snapRead p rest) s = .next (answered p tagByte rc [] (frameEnded p (0x51 :: rest) s))) ∧
      (Dispatched p 0x52 tagByte [byteOf i.val, g] rest s →
        exec (.snapDiscard p rest) s =
          .next (answered p tagByte rc [] (frameEnded p (0x52 :: rest) s))))

/-- SNAP_LIST answers the held count, the quota and, in ascending order, the handle and state of every slot the
port owns, and changes nothing (R156). -/
def Obligations.SnapListListsOwnSlots : Prop :=
  ∀ (p : Port) (tagByte : Byte) (rest : List Byte) (s : State), Dispatched p 0x53 tagByte [] rest s →
    ∃ is : List SlotIdx, is.Pairwise (· < ·) ∧
      (∀ i, i ∈ is ↔ ∃ sn, (s.slot i).body = some sn ∧ sn.owner = p) ∧
      exec (.snapList p rest) s = .next (answered p tagByte .ok
        ([byteOf (s.heldCount p), s.device.quota, byteOf is.length]
          ++ (is.map (fun i => [byteOf i.val, (s.slot i).generation,
                match (s.slot i).body with
                | some { phase := .armed _ _, .. } => 1
                | some { phase := .captured _ _, .. } => 2
                | some { phase := .expired _, .. } => 3
                | none => 0])).flatten)
        (frameEnded p (0x53 :: rest) s))

/-! ### Notices -/

/-- FETCH with a max of 1 to 4 removes and answers the oldest notices, then appends a LOSS notice where a loss is
pending, which clears the lost count and the mark, and evaluates the line again (R166, R167, R171). -/
def Obligations.FetchRemovesOldestNotices : Prop :=
  ∀ (p : Port) (tagByte max : Byte) (rest : List Byte) (s : State),
    Dispatched p 0x60 tagByte [max] rest s → 1 ≤ max.toNat → max.toNat ≤ 4 →
    ∃ (k : Nat) (q : Queue) (level : Level), k = min max.toNat (s.queue p).notices.length ∧
      q = (if (s.queue p).lossPending = true then
            { notices := (s.queue p).notices.drop k ++
                [{ kind := .loss, source := .zero, time := s.now
                   value := (s.queue p).lost.setWidth 32, aux := 0 }]
              lost := 0, lossPending := false }
          else { s.queue p with notices := (s.queue p).notices.drop k }) ∧
      (level = .low ↔ ∃ n ∈ q.notices, hasKind (s.wakeSet p) n.kind = true) ∧
      exec (.fetch p rest) s = .next (answered p tagByte .ok
        ([byteOf k, byteOf q.notices.length] ++ (((s.queue p).notices.take k).map noticeBytes).flatten)
        (((frameEnded p (0x60 :: rest) s).setQueue p q).setIntLevel p level))

/-! ### Refused arguments -/

/-- Arguments outside their values are refused BAD_ARGUMENT and change nothing: a channel above 7, a resource
above 8, a slot above 23, a max outside 1 to 4, a set with an undefined member, a yes-no byte above 1, a window
with low above high, a record with a field outside its values (R68, R84, R98, R101, R119, R132, R153, R166,
R170, R200). -/
def Obligations.BadArgumentsAreRefused : Prop :=
  ∀ (i : Instr) (p : Port) (code tagByte : Byte) (pl rest : List Byte) (s : State),
    ((i = .getChannel p rest ∧ code = 0x21 ∨ i = .readChannel p rest ∧ code = 0x33 ∨
        i = .take p rest ∧ code = 0x40 ∨ i = .peekView p rest ∧ code = 0x41 ∨
        i = .setView p rest ∧ code = 0x42 ∨ i = .drain p rest ∧ code = 0x43) ∧ 7 < (byteAt pl 0).toNat ∨
      i = .drain p rest ∧ code = 0x43 ∧ (byteAt pl 1 = 0 ∨ 4 < (byteAt pl 1).toNat) ∨
      i = .setView p rest ∧ code = 0x42 ∧ (1 < (byteAt pl 7).toNat ∨
        (wordAt pl 12).toInt < (wordAt pl 8).toInt ∨ 127 < (byteAt pl 16).toNat) ∨
      i = .fetch p rest ∧ code = 0x60 ∧ (byteAt pl 0 = 0 ∨ 4 < (byteAt pl 0).toNat) ∨
      i = .setPort p rest ∧ code = 0x24 ∧ 4096 ≤ (halfAt pl 0).toNat ∨
      i = .claim p rest ∧ code = 0x10 ∧ (8 < (byteAt pl 0).toNat ∨ 1 < (byteAt pl 1).toNat) ∨
      i = .release p rest ∧ code = 0x11 ∧ 8 < (byteAt pl 0).toNat ∨
      (i = .snapRead p rest ∧ code = 0x51 ∨ i = .snapDiscard p rest ∧ code = 0x52) ∧
        23 < (byteAt pl 0).toNat ∨
      (∃ c : Chan, i = .setChannel p rest ∧ code = 0x20 ∧ byteAt pl 0 = byteOf c.val ∧
        (s.claim (c.castLE (by decide))).holder = some p ∧
        (4 < (byteAt pl 1).toNat ∨ 7 < (byteAt pl 2).toNat ∨ 2 < (byteAt pl 3).toNat ∨
          1 < (byteAt pl 4).toNat ∨ 2 < (byteAt pl 5).toNat ∨ 2 < (byteAt pl 6).toNat ∨
          1 < (byteAt pl 7).toNat ∨ 1 < (byteAt pl 8).toNat ∨ 4 < (byteAt pl 9).toNat ∨
          1 < (byteAt pl 10).toNat)) ∨
      i = .setDevice p rest ∧ code = 0x22 ∧ (s.claim 8).holder = some p ∧
        (byteAt pl 1 = 0 ∨ 24 < (byteAt pl 1).toNat ∨ 3 < (byteAt pl 2).toNat ∨ 3 < (byteAt pl 3).toNat ∨
          7 < (byteAt pl 4).toNat)) →
    Dispatched p code tagByte pl rest s →
    exec i s = .next (answered p tagByte .badArgument [] (frameEnded p (code :: rest) s))

/-! ### Resets by command -/

/-- PORT_RESET clears the issuing port from every block: its resources pass with CLAIM_GRANTED cause 3 or are
left free, it leaves every waiter list, its slots are freed, its views, queue, wake set and line return to
their defaults; the response counts what it held; every other port keeps its own (R73, R94, R114, R158, R176,
R194). -/
def Obligations.PortResetClearsOwnContext : Prop :=
  ∀ (p : Port) (tagByte : Byte) (rest : List Byte) (s : State),
    Dispatched p 0x70 tagByte [] rest s → HeldInv s → ClaimInv s →
    ∃ t holdings waits slots,
      exec (.portReset p rest) s = .next (answered p tagByte .ok
        [byteOf holdings, byteOf waits, byteOf slots, byteOf (s.queue p).notices.length] t) ∧
      holdings = ((List.finRange 9).filter (fun r => (s.claim r).holder == some p)).length ∧
      waits = ((List.finRange 9).filter (fun r => decide (p ∈ (s.claim r).waiters))).length ∧
      slots = s.heldCount p ∧
      (∀ r, t.claim r =
        if (s.claim r).holder = some p then
          { holder := (s.claim r).waiters.head?
            waiters := (s.claim r).waiters.tail
            leaseDue := if (s.claim r).waiters = [] then none else s.newLease }
        else { s.claim r with waiters := (s.claim r).waiters.filter (fun q => q != p) }) ∧
      (∀ i, t.slot i =
        match (s.slot i).body with
        | some sn => if sn.owner = p then { s.slot i with body := none } else s.slot i
        | none => s.slot i) ∧
      t.heldCount p = 0 ∧ (∀ c, t.view p c = View.fresh s.now (s.ring c).next) ∧
      t.queue p = Queue.reset ∧ t.wakeSet p = 0xFFF ∧ t.intLevel p = .high ∧
      (∀ q, q ≠ p → t.heldCount q = s.heldCount q ∧ (∀ c, t.view q c = s.view q c) ∧
        t.wakeSet q = s.wakeSet q ∧
        t.queue q = (List.finRange 9).foldl (fun n r =>
          n.told ((s.claim r).holder == some p && (s.claim r).waiters.head? == some q)
            { kind := .claimGranted, source := .resource r, time := s.now, value := 3,
              aux := BitVec.ofNat 32 p.val }) (s.queue q) ∧
        ((∀ r, (s.claim r).holder = some p → (s.claim r).waiters.head? ≠ some q) →
          t.intLevel q = s.intLevel q)) ∧
      SameExcept [.claims, .slots, .held, .views, .queues, .wake, .intLine]
        (frameEnded p (0x70 :: rest) s) t

/-- DEVICE_RESET of the DEV holder: every block has its state after reset, each filtered level is its raw level,
the issuer's slot holds RESET_DONE with both its marks clear, and every other port has an empty slot, its
reset-seen mark set and its frame in progress abandoned (R18, R113, R195). -/
def Obligations.DeviceResetResetsEveryBlock : Prop :=
  ∀ (p : Port) (tagByte : Byte) (rest : List Byte) (s : State), Dispatched p 0x71 tagByte [] rest s →
    (s.claim 8).holder = some p →
    ∃ t, exec (.deviceReset p rest) s = .next t ∧ BlocksReset t ∧
      (∀ c, t.chanLines c = { s.chanLines c with
        a := ⟨(s.chanLines c).a.raw, (s.chanLines c).a.raw, 0⟩
        b := ⟨(s.chanLines c).b.raw, (s.chanLines c).b.raw, 0⟩
        z := ⟨(s.chanLines c).z.raw, (s.chanLines c).z.raw, 0⟩ }) ∧
      (∀ n, t.cap n = { s.cap n with line := ⟨(s.cap n).line.raw, (s.cap n).line.raw, 0⟩ }) ∧
      (t.port p).slot = some { code := .resetDone, tag := tagByte.setWidth 4, payload := [] } ∧
      (t.port p).recv = .idle ∧ (t.port p).collided = false ∧ (t.port p).resetSeen = false ∧
      (∀ q, q ≠ p → (t.port q).slot = none ∧ (t.port q).collided = false ∧ (t.port q).resetSeen = true ∧
        (t.port q).recv = if (s.port q).recv = .receiving then .abandoned else (s.port q).recv) ∧
      (∀ q, sdoLevel (t.port q) = .low) ∧
      t.phase = s.phase ∧ t.resetLow = s.resetLow ∧ t.resetWire = s.resetWire ∧ t.wires = s.wires ∧
      t.freeCount = s.freeCount ∧ t.pending = s.pending

/-! ### Invariants -/

/-- Every invariant holds right after reset. -/
def Obligations.InvariantsHoldAtReset : Prop :=
  QueueInv State.reset ∧ LineInv State.reset ∧ ClaimInv State.reset ∧ RingInv State.reset ∧
  HeldInv State.reset ∧ ViewMarksInv State.reset ∧ WindowInv State.reset ∧ EngineInv State.reset ∧
  RingKindInv State.reset ∧ SnapInv State.reset ∧ QuotaInv State.reset ∧ ResetInv State.reset ∧
  CountInv State.reset ∧ PortInv State.reset ∧ ResponseInv State.reset

/-- Every step keeps the law of the notice queues, at most 16 notices and a loss pending only on a full queue, and
each interrupt line LOW exactly when its queue holds a notice of a wake kind (R163, R167, R171). -/
def Obligations.StepKeepsNoticeInv : Prop :=
  ∀ s t : State, step s = .next t → (QueueInv s → QueueInv t) ∧ (LineInv s → LineInv t)

/-- Every step keeps the law of the claim table: one holder, no port twice on a list, no waiter without a holder,
a lease exactly while held under a nonzero period (R96, R103, R110). -/
def Obligations.StepKeepsClaimInv : Prop := ∀ s t : State, ClaimInv s → step s = .next t → ClaimInv t

/-- Every step keeps the law of the rings: at most 16 entries with consecutive numbers ending below the next one,
and every cursor between the oldest held and the next (R60, R63). -/
def Obligations.StepKeepsRingInv : Prop := ∀ s t : State, RingInv s → step s = .next t → RingInv t

/-- Every step keeps each held count equal to the number of slots the port owns (R137). -/
def Obligations.StepKeepsHeldInv : Prop := ∀ s t : State, HeldInv s → step s = .next t → HeldInv t

/-- Every step keeps the above marks set exactly while a delta exceeds its nonzero threshold and the saturated
marks only on full deltas, and each window state that of the channel's position, present exactly while the
window is enabled and the channel is in QUAD (R75 to R80, R88, R89). -/
def Obligations.StepKeepsViewInv : Prop :=
  ∀ s t : State, step s = .next t → (ViewMarksInv s → ViewMarksInv t) ∧ (WindowInv s → WindowInv t)

/-- Every step keeps the engine items at their fixed values outside their mode, the mode state tied to the
filtered levels, and each ring to entries of its mode's one kind (R19, R29, R41, R44, R53, R60, R61). That every
channel is OFF during a power-on or RESET pin reset is log entry 15 (DEDUCED). -/
def Obligations.StepKeepsEngineInv : Prop :=
  ∀ s t : State, EngineInv s → RingKindInv s → step s = .next t → EngineInv t ∧ RingKindInv t

/-- Every step keeps every ARMED snapshot on a source that can fire, and every CAPTURED one with an entry for each
listed channel (R135, R143, R149). -/
def Obligations.StepKeepsSnapInv : Prop := ∀ s t : State, SnapInv s → step s = .next t → SnapInv t

/-- Every step keeps the quota in 1 to 24, every stable-time count below its filter length, the count of LOW samples of
RESET at 16 or fewer and that of the ticks of a power-on interval at 4,096 or fewer (R2, R8, R9, R131). -/
def Obligations.StepKeepsRangeInv : Prop :=
  ∀ s t : State, step s = .next t → (QuotaInv s → CountInv s → QuotaInv t ∧ CountInv t) ∧ (ResetInv s → ResetInv t)

/-- Every step keeps each port in a frame presenting what its slot holds, with the first 28 of its counted bytes kept,
at most 7 bits of a byte in progress, and no frame that counts during a reset; and, where the snapshots and rings obey
their laws, every response at 128 payload bytes or fewer (R178, R181, R184, R190, R197). -/
def Obligations.StepKeepsPortInv : Prop :=
  ∀ s t : State, step s = .next t →
    (PortInv s → PortInv t) ∧ (SnapInv s → RingInv s → ResponseInv s → ResponseInv t)
end

