-- ==== Sys2Proof/Laws/State.lean ====
section
/-! SUPPORT. Small laws of the tables and of State's updates: reading a table after an update, and every field
after every update. -/

namespace Sys2Proof

@[simp] theorem tget_tset_self {α : Type} {n : Nat} (v : Vector α n) (i : Fin n) (x : α) :
    tget (tset v i x) i = x := by simp [tget, tset]

theorem tget_tset_of_ne {α : Type} {n : Nat} (v : Vector α n) {i j : Fin n} (x : α) (h : i ≠ j) :
    tget (tset v i x) j = tget v j := by
  have : i.val ≠ j.val := fun e => h (Fin.ext e)
  simp [tget, tset, Vector.getElem_set_ne, this]

theorem tget_tset {α : Type} {n : Nat} (v : Vector α n) (i j : Fin n) (x : α) :
    tget (tset v i x) j = if i = j then x else tget v j := by
  by_cases h : i = j
  · subst h; simp
  · simp [h, tget_tset_of_ne]

@[simp] theorem tget_tmap {α β : Type} {n : Nat} (v : Vector α n) (f : Fin n → α → β) (i : Fin n) :
    tget (tmap v f) i = f i (tget v i) := by simp [tget, tmap]

@[simp] theorem tget_replicate {α : Type} {n : Nat} (x : α) (i : Fin n) :
    tget (Vector.replicate n x) i = x := by simp [tget]

end Sys2Proof

namespace Sys2Proof.Machine

open Sys2Proof

/-! ### Every field after every update -/
@[simp] theorem State.setChanLines_phase (s : State) (c : Chan) (x : ChanLines) : (s.setChanLines c x).phase = s.phase := rfl
@[simp] theorem State.setChanLines_now (s : State) (c : Chan) (x : ChanLines) : (s.setChanLines c x).now = s.now := rfl
@[simp] theorem State.setChanLines_caps (s : State) (c : Chan) (x : ChanLines) : (s.setChanLines c x).caps = s.caps := rfl
@[simp] theorem State.setChanLines_engines (s : State) (c : Chan) (x : ChanLines) : (s.setChanLines c x).engines = s.engines := rfl
@[simp] theorem State.setChanLines_rings (s : State) (c : Chan) (x : ChanLines) : (s.setChanLines c x).rings = s.rings := rfl
@[simp] theorem State.setChanLines_views (s : State) (c : Chan) (x : ChanLines) : (s.setChanLines c x).views = s.views := rfl
@[simp] theorem State.setChanLines_claims (s : State) (c : Chan) (x : ChanLines) : (s.setChanLines c x).claims = s.claims := rfl
@[simp] theorem State.setChanLines_settings (s : State) (c : Chan) (x : ChanLines) : (s.setChanLines c x).settings = s.settings := rfl
@[simp] theorem State.setChanLines_device (s : State) (c : Chan) (x : ChanLines) : (s.setChanLines c x).device = s.device := rfl
@[simp] theorem State.setChanLines_wake (s : State) (c : Chan) (x : ChanLines) : (s.setChanLines c x).wake = s.wake := rfl
@[simp] theorem State.setChanLines_slots (s : State) (c : Chan) (x : ChanLines) : (s.setChanLines c x).slots = s.slots := rfl
@[simp] theorem State.setChanLines_held (s : State) (c : Chan) (x : ChanLines) : (s.setChanLines c x).held = s.held := rfl
@[simp] theorem State.setChanLines_queues (s : State) (c : Chan) (x : ChanLines) : (s.setChanLines c x).queues = s.queues := rfl
@[simp] theorem State.setChanLines_intLine (s : State) (c : Chan) (x : ChanLines) : (s.setChanLines c x).intLine = s.intLine := rfl
@[simp] theorem State.setChanLines_ports (s : State) (c : Chan) (x : ChanLines) : (s.setChanLines c x).ports = s.ports := rfl
@[simp] theorem State.setChanLines_freeCount (s : State) (c : Chan) (x : ChanLines) : (s.setChanLines c x).freeCount = s.freeCount := rfl
@[simp] theorem State.setChanLines_wires (s : State) (c : Chan) (x : ChanLines) : (s.setChanLines c x).wires = s.wires := rfl
@[simp] theorem State.setChanLines_resetLow (s : State) (c : Chan) (x : ChanLines) : (s.setChanLines c x).resetLow = s.resetLow := rfl
@[simp] theorem State.setChanLines_resetWire (s : State) (c : Chan) (x : ChanLines) : (s.setChanLines c x).resetWire = s.resetWire := rfl
@[simp] theorem State.setChanLines_pending (s : State) (c : Chan) (x : ChanLines) : (s.setChanLines c x).pending = s.pending := rfl
@[simp] theorem State.setChanLines_cap (s : State) (c : Chan) (x : ChanLines) (j : CapIdx) : (s.setChanLines c x).cap j = s.cap j := rfl
@[simp] theorem State.setChanLines_engine (s : State) (c : Chan) (x : ChanLines) (j : Chan) : (s.setChanLines c x).engine j = s.engine j := rfl
@[simp] theorem State.setChanLines_ring (s : State) (c : Chan) (x : ChanLines) (j : Chan) : (s.setChanLines c x).ring j = s.ring j := rfl
@[simp] theorem State.setChanLines_view (s : State) (c : Chan) (x : ChanLines) (q : Port) (d : Chan) : (s.setChanLines c x).view q d = s.view q d := rfl
@[simp] theorem State.setChanLines_claim (s : State) (c : Chan) (x : ChanLines) (j : Resource) : (s.setChanLines c x).claim j = s.claim j := rfl
@[simp] theorem State.setChanLines_chanSettings (s : State) (c : Chan) (x : ChanLines) (j : Chan) : (s.setChanLines c x).chanSettings j = s.chanSettings j := rfl
@[simp] theorem State.setChanLines_wakeSet (s : State) (c : Chan) (x : ChanLines) (j : Port) : (s.setChanLines c x).wakeSet j = s.wakeSet j := rfl
@[simp] theorem State.setChanLines_slot (s : State) (c : Chan) (x : ChanLines) (j : SlotIdx) : (s.setChanLines c x).slot j = s.slot j := rfl
@[simp] theorem State.setChanLines_heldCount (s : State) (c : Chan) (x : ChanLines) (j : Port) : (s.setChanLines c x).heldCount j = s.heldCount j := rfl
@[simp] theorem State.setChanLines_queue (s : State) (c : Chan) (x : ChanLines) (j : Port) : (s.setChanLines c x).queue j = s.queue j := rfl
@[simp] theorem State.setChanLines_intLevel (s : State) (c : Chan) (x : ChanLines) (j : Port) : (s.setChanLines c x).intLevel j = s.intLevel j := rfl
@[simp] theorem State.setChanLines_port (s : State) (c : Chan) (x : ChanLines) (j : Port) : (s.setChanLines c x).port j = s.port j := rfl
@[simp] theorem State.setCap_phase (s : State) (n : CapIdx) (x : CapConditioner) : (s.setCap n x).phase = s.phase := rfl
@[simp] theorem State.setCap_now (s : State) (n : CapIdx) (x : CapConditioner) : (s.setCap n x).now = s.now := rfl
@[simp] theorem State.setCap_lines (s : State) (n : CapIdx) (x : CapConditioner) : (s.setCap n x).lines = s.lines := rfl
@[simp] theorem State.setCap_engines (s : State) (n : CapIdx) (x : CapConditioner) : (s.setCap n x).engines = s.engines := rfl
@[simp] theorem State.setCap_rings (s : State) (n : CapIdx) (x : CapConditioner) : (s.setCap n x).rings = s.rings := rfl
@[simp] theorem State.setCap_views (s : State) (n : CapIdx) (x : CapConditioner) : (s.setCap n x).views = s.views := rfl
@[simp] theorem State.setCap_claims (s : State) (n : CapIdx) (x : CapConditioner) : (s.setCap n x).claims = s.claims := rfl
@[simp] theorem State.setCap_settings (s : State) (n : CapIdx) (x : CapConditioner) : (s.setCap n x).settings = s.settings := rfl
@[simp] theorem State.setCap_device (s : State) (n : CapIdx) (x : CapConditioner) : (s.setCap n x).device = s.device := rfl
@[simp] theorem State.setCap_wake (s : State) (n : CapIdx) (x : CapConditioner) : (s.setCap n x).wake = s.wake := rfl
@[simp] theorem State.setCap_slots (s : State) (n : CapIdx) (x : CapConditioner) : (s.setCap n x).slots = s.slots := rfl
@[simp] theorem State.setCap_held (s : State) (n : CapIdx) (x : CapConditioner) : (s.setCap n x).held = s.held := rfl
@[simp] theorem State.setCap_queues (s : State) (n : CapIdx) (x : CapConditioner) : (s.setCap n x).queues = s.queues := rfl
@[simp] theorem State.setCap_intLine (s : State) (n : CapIdx) (x : CapConditioner) : (s.setCap n x).intLine = s.intLine := rfl
@[simp] theorem State.setCap_ports (s : State) (n : CapIdx) (x : CapConditioner) : (s.setCap n x).ports = s.ports := rfl
@[simp] theorem State.setCap_freeCount (s : State) (n : CapIdx) (x : CapConditioner) : (s.setCap n x).freeCount = s.freeCount := rfl
@[simp] theorem State.setCap_wires (s : State) (n : CapIdx) (x : CapConditioner) : (s.setCap n x).wires = s.wires := rfl
@[simp] theorem State.setCap_resetLow (s : State) (n : CapIdx) (x : CapConditioner) : (s.setCap n x).resetLow = s.resetLow := rfl
@[simp] theorem State.setCap_resetWire (s : State) (n : CapIdx) (x : CapConditioner) : (s.setCap n x).resetWire = s.resetWire := rfl
@[simp] theorem State.setCap_pending (s : State) (n : CapIdx) (x : CapConditioner) : (s.setCap n x).pending = s.pending := rfl
@[simp] theorem State.setCap_chanLines (s : State) (n : CapIdx) (x : CapConditioner) (j : Chan) : (s.setCap n x).chanLines j = s.chanLines j := rfl
@[simp] theorem State.setCap_engine (s : State) (n : CapIdx) (x : CapConditioner) (j : Chan) : (s.setCap n x).engine j = s.engine j := rfl
@[simp] theorem State.setCap_ring (s : State) (n : CapIdx) (x : CapConditioner) (j : Chan) : (s.setCap n x).ring j = s.ring j := rfl
@[simp] theorem State.setCap_view (s : State) (n : CapIdx) (x : CapConditioner) (q : Port) (d : Chan) : (s.setCap n x).view q d = s.view q d := rfl
@[simp] theorem State.setCap_claim (s : State) (n : CapIdx) (x : CapConditioner) (j : Resource) : (s.setCap n x).claim j = s.claim j := rfl
@[simp] theorem State.setCap_chanSettings (s : State) (n : CapIdx) (x : CapConditioner) (j : Chan) : (s.setCap n x).chanSettings j = s.chanSettings j := rfl
@[simp] theorem State.setCap_wakeSet (s : State) (n : CapIdx) (x : CapConditioner) (j : Port) : (s.setCap n x).wakeSet j = s.wakeSet j := rfl
@[simp] theorem State.setCap_slot (s : State) (n : CapIdx) (x : CapConditioner) (j : SlotIdx) : (s.setCap n x).slot j = s.slot j := rfl
@[simp] theorem State.setCap_heldCount (s : State) (n : CapIdx) (x : CapConditioner) (j : Port) : (s.setCap n x).heldCount j = s.heldCount j := rfl
@[simp] theorem State.setCap_queue (s : State) (n : CapIdx) (x : CapConditioner) (j : Port) : (s.setCap n x).queue j = s.queue j := rfl
@[simp] theorem State.setCap_intLevel (s : State) (n : CapIdx) (x : CapConditioner) (j : Port) : (s.setCap n x).intLevel j = s.intLevel j := rfl
@[simp] theorem State.setCap_port (s : State) (n : CapIdx) (x : CapConditioner) (j : Port) : (s.setCap n x).port j = s.port j := rfl
@[simp] theorem State.setEngine_phase (s : State) (c : Chan) (x : Engine) : (s.setEngine c x).phase = s.phase := rfl
@[simp] theorem State.setEngine_now (s : State) (c : Chan) (x : Engine) : (s.setEngine c x).now = s.now := rfl
@[simp] theorem State.setEngine_lines (s : State) (c : Chan) (x : Engine) : (s.setEngine c x).lines = s.lines := rfl
@[simp] theorem State.setEngine_caps (s : State) (c : Chan) (x : Engine) : (s.setEngine c x).caps = s.caps := rfl
@[simp] theorem State.setEngine_rings (s : State) (c : Chan) (x : Engine) : (s.setEngine c x).rings = s.rings := rfl
@[simp] theorem State.setEngine_views (s : State) (c : Chan) (x : Engine) : (s.setEngine c x).views = s.views := rfl
@[simp] theorem State.setEngine_claims (s : State) (c : Chan) (x : Engine) : (s.setEngine c x).claims = s.claims := rfl
@[simp] theorem State.setEngine_settings (s : State) (c : Chan) (x : Engine) : (s.setEngine c x).settings = s.settings := rfl
@[simp] theorem State.setEngine_device (s : State) (c : Chan) (x : Engine) : (s.setEngine c x).device = s.device := rfl
@[simp] theorem State.setEngine_wake (s : State) (c : Chan) (x : Engine) : (s.setEngine c x).wake = s.wake := rfl
@[simp] theorem State.setEngine_slots (s : State) (c : Chan) (x : Engine) : (s.setEngine c x).slots = s.slots := rfl
@[simp] theorem State.setEngine_held (s : State) (c : Chan) (x : Engine) : (s.setEngine c x).held = s.held := rfl
@[simp] theorem State.setEngine_queues (s : State) (c : Chan) (x : Engine) : (s.setEngine c x).queues = s.queues := rfl
@[simp] theorem State.setEngine_intLine (s : State) (c : Chan) (x : Engine) : (s.setEngine c x).intLine = s.intLine := rfl
@[simp] theorem State.setEngine_ports (s : State) (c : Chan) (x : Engine) : (s.setEngine c x).ports = s.ports := rfl
@[simp] theorem State.setEngine_freeCount (s : State) (c : Chan) (x : Engine) : (s.setEngine c x).freeCount = s.freeCount := rfl
@[simp] theorem State.setEngine_wires (s : State) (c : Chan) (x : Engine) : (s.setEngine c x).wires = s.wires := rfl
@[simp] theorem State.setEngine_resetLow (s : State) (c : Chan) (x : Engine) : (s.setEngine c x).resetLow = s.resetLow := rfl
@[simp] theorem State.setEngine_resetWire (s : State) (c : Chan) (x : Engine) : (s.setEngine c x).resetWire = s.resetWire := rfl
@[simp] theorem State.setEngine_pending (s : State) (c : Chan) (x : Engine) : (s.setEngine c x).pending = s.pending := rfl
@[simp] theorem State.setEngine_chanLines (s : State) (c : Chan) (x : Engine) (j : Chan) : (s.setEngine c x).chanLines j = s.chanLines j := rfl
@[simp] theorem State.setEngine_cap (s : State) (c : Chan) (x : Engine) (j : CapIdx) : (s.setEngine c x).cap j = s.cap j := rfl
@[simp] theorem State.setEngine_ring (s : State) (c : Chan) (x : Engine) (j : Chan) : (s.setEngine c x).ring j = s.ring j := rfl
@[simp] theorem State.setEngine_view (s : State) (c : Chan) (x : Engine) (q : Port) (d : Chan) : (s.setEngine c x).view q d = s.view q d := rfl
@[simp] theorem State.setEngine_claim (s : State) (c : Chan) (x : Engine) (j : Resource) : (s.setEngine c x).claim j = s.claim j := rfl
@[simp] theorem State.setEngine_chanSettings (s : State) (c : Chan) (x : Engine) (j : Chan) : (s.setEngine c x).chanSettings j = s.chanSettings j := rfl
@[simp] theorem State.setEngine_wakeSet (s : State) (c : Chan) (x : Engine) (j : Port) : (s.setEngine c x).wakeSet j = s.wakeSet j := rfl
@[simp] theorem State.setEngine_slot (s : State) (c : Chan) (x : Engine) (j : SlotIdx) : (s.setEngine c x).slot j = s.slot j := rfl
@[simp] theorem State.setEngine_heldCount (s : State) (c : Chan) (x : Engine) (j : Port) : (s.setEngine c x).heldCount j = s.heldCount j := rfl
@[simp] theorem State.setEngine_queue (s : State) (c : Chan) (x : Engine) (j : Port) : (s.setEngine c x).queue j = s.queue j := rfl
@[simp] theorem State.setEngine_intLevel (s : State) (c : Chan) (x : Engine) (j : Port) : (s.setEngine c x).intLevel j = s.intLevel j := rfl
@[simp] theorem State.setEngine_port (s : State) (c : Chan) (x : Engine) (j : Port) : (s.setEngine c x).port j = s.port j := rfl
@[simp] theorem State.setRing_phase (s : State) (c : Chan) (x : Ring) : (s.setRing c x).phase = s.phase := rfl
@[simp] theorem State.setRing_now (s : State) (c : Chan) (x : Ring) : (s.setRing c x).now = s.now := rfl
@[simp] theorem State.setRing_lines (s : State) (c : Chan) (x : Ring) : (s.setRing c x).lines = s.lines := rfl
@[simp] theorem State.setRing_caps (s : State) (c : Chan) (x : Ring) : (s.setRing c x).caps = s.caps := rfl
@[simp] theorem State.setRing_engines (s : State) (c : Chan) (x : Ring) : (s.setRing c x).engines = s.engines := rfl
@[simp] theorem State.setRing_views (s : State) (c : Chan) (x : Ring) : (s.setRing c x).views = s.views := rfl
@[simp] theorem State.setRing_claims (s : State) (c : Chan) (x : Ring) : (s.setRing c x).claims = s.claims := rfl
@[simp] theorem State.setRing_settings (s : State) (c : Chan) (x : Ring) : (s.setRing c x).settings = s.settings := rfl
@[simp] theorem State.setRing_device (s : State) (c : Chan) (x : Ring) : (s.setRing c x).device = s.device := rfl
@[simp] theorem State.setRing_wake (s : State) (c : Chan) (x : Ring) : (s.setRing c x).wake = s.wake := rfl
@[simp] theorem State.setRing_slots (s : State) (c : Chan) (x : Ring) : (s.setRing c x).slots = s.slots := rfl
@[simp] theorem State.setRing_held (s : State) (c : Chan) (x : Ring) : (s.setRing c x).held = s.held := rfl
@[simp] theorem State.setRing_queues (s : State) (c : Chan) (x : Ring) : (s.setRing c x).queues = s.queues := rfl
@[simp] theorem State.setRing_intLine (s : State) (c : Chan) (x : Ring) : (s.setRing c x).intLine = s.intLine := rfl
@[simp] theorem State.setRing_ports (s : State) (c : Chan) (x : Ring) : (s.setRing c x).ports = s.ports := rfl
@[simp] theorem State.setRing_freeCount (s : State) (c : Chan) (x : Ring) : (s.setRing c x).freeCount = s.freeCount := rfl
@[simp] theorem State.setRing_wires (s : State) (c : Chan) (x : Ring) : (s.setRing c x).wires = s.wires := rfl
@[simp] theorem State.setRing_resetLow (s : State) (c : Chan) (x : Ring) : (s.setRing c x).resetLow = s.resetLow := rfl
@[simp] theorem State.setRing_resetWire (s : State) (c : Chan) (x : Ring) : (s.setRing c x).resetWire = s.resetWire := rfl
@[simp] theorem State.setRing_pending (s : State) (c : Chan) (x : Ring) : (s.setRing c x).pending = s.pending := rfl
@[simp] theorem State.setRing_chanLines (s : State) (c : Chan) (x : Ring) (j : Chan) : (s.setRing c x).chanLines j = s.chanLines j := rfl
@[simp] theorem State.setRing_cap (s : State) (c : Chan) (x : Ring) (j : CapIdx) : (s.setRing c x).cap j = s.cap j := rfl
@[simp] theorem State.setRing_engine (s : State) (c : Chan) (x : Ring) (j : Chan) : (s.setRing c x).engine j = s.engine j := rfl
@[simp] theorem State.setRing_view (s : State) (c : Chan) (x : Ring) (q : Port) (d : Chan) : (s.setRing c x).view q d = s.view q d := rfl
@[simp] theorem State.setRing_claim (s : State) (c : Chan) (x : Ring) (j : Resource) : (s.setRing c x).claim j = s.claim j := rfl
@[simp] theorem State.setRing_chanSettings (s : State) (c : Chan) (x : Ring) (j : Chan) : (s.setRing c x).chanSettings j = s.chanSettings j := rfl
@[simp] theorem State.setRing_wakeSet (s : State) (c : Chan) (x : Ring) (j : Port) : (s.setRing c x).wakeSet j = s.wakeSet j := rfl
@[simp] theorem State.setRing_slot (s : State) (c : Chan) (x : Ring) (j : SlotIdx) : (s.setRing c x).slot j = s.slot j := rfl
@[simp] theorem State.setRing_heldCount (s : State) (c : Chan) (x : Ring) (j : Port) : (s.setRing c x).heldCount j = s.heldCount j := rfl
@[simp] theorem State.setRing_queue (s : State) (c : Chan) (x : Ring) (j : Port) : (s.setRing c x).queue j = s.queue j := rfl
@[simp] theorem State.setRing_intLevel (s : State) (c : Chan) (x : Ring) (j : Port) : (s.setRing c x).intLevel j = s.intLevel j := rfl
@[simp] theorem State.setRing_port (s : State) (c : Chan) (x : Ring) (j : Port) : (s.setRing c x).port j = s.port j := rfl
@[simp] theorem State.setView_phase (s : State) (p : Port) (c : Chan) (x : View) : (s.setView p c x).phase = s.phase := rfl
@[simp] theorem State.setView_now (s : State) (p : Port) (c : Chan) (x : View) : (s.setView p c x).now = s.now := rfl
@[simp] theorem State.setView_lines (s : State) (p : Port) (c : Chan) (x : View) : (s.setView p c x).lines = s.lines := rfl
@[simp] theorem State.setView_caps (s : State) (p : Port) (c : Chan) (x : View) : (s.setView p c x).caps = s.caps := rfl
@[simp] theorem State.setView_engines (s : State) (p : Port) (c : Chan) (x : View) : (s.setView p c x).engines = s.engines := rfl
@[simp] theorem State.setView_rings (s : State) (p : Port) (c : Chan) (x : View) : (s.setView p c x).rings = s.rings := rfl
@[simp] theorem State.setView_claims (s : State) (p : Port) (c : Chan) (x : View) : (s.setView p c x).claims = s.claims := rfl
@[simp] theorem State.setView_settings (s : State) (p : Port) (c : Chan) (x : View) : (s.setView p c x).settings = s.settings := rfl
@[simp] theorem State.setView_device (s : State) (p : Port) (c : Chan) (x : View) : (s.setView p c x).device = s.device := rfl
@[simp] theorem State.setView_wake (s : State) (p : Port) (c : Chan) (x : View) : (s.setView p c x).wake = s.wake := rfl
@[simp] theorem State.setView_slots (s : State) (p : Port) (c : Chan) (x : View) : (s.setView p c x).slots = s.slots := rfl
@[simp] theorem State.setView_held (s : State) (p : Port) (c : Chan) (x : View) : (s.setView p c x).held = s.held := rfl
@[simp] theorem State.setView_queues (s : State) (p : Port) (c : Chan) (x : View) : (s.setView p c x).queues = s.queues := rfl
@[simp] theorem State.setView_intLine (s : State) (p : Port) (c : Chan) (x : View) : (s.setView p c x).intLine = s.intLine := rfl
@[simp] theorem State.setView_ports (s : State) (p : Port) (c : Chan) (x : View) : (s.setView p c x).ports = s.ports := rfl
@[simp] theorem State.setView_freeCount (s : State) (p : Port) (c : Chan) (x : View) : (s.setView p c x).freeCount = s.freeCount := rfl
@[simp] theorem State.setView_wires (s : State) (p : Port) (c : Chan) (x : View) : (s.setView p c x).wires = s.wires := rfl
@[simp] theorem State.setView_resetLow (s : State) (p : Port) (c : Chan) (x : View) : (s.setView p c x).resetLow = s.resetLow := rfl
@[simp] theorem State.setView_resetWire (s : State) (p : Port) (c : Chan) (x : View) : (s.setView p c x).resetWire = s.resetWire := rfl
@[simp] theorem State.setView_pending (s : State) (p : Port) (c : Chan) (x : View) : (s.setView p c x).pending = s.pending := rfl
@[simp] theorem State.setView_chanLines (s : State) (p : Port) (c : Chan) (x : View) (j : Chan) : (s.setView p c x).chanLines j = s.chanLines j := rfl
@[simp] theorem State.setView_cap (s : State) (p : Port) (c : Chan) (x : View) (j : CapIdx) : (s.setView p c x).cap j = s.cap j := rfl
@[simp] theorem State.setView_engine (s : State) (p : Port) (c : Chan) (x : View) (j : Chan) : (s.setView p c x).engine j = s.engine j := rfl
@[simp] theorem State.setView_ring (s : State) (p : Port) (c : Chan) (x : View) (j : Chan) : (s.setView p c x).ring j = s.ring j := rfl
@[simp] theorem State.setView_claim (s : State) (p : Port) (c : Chan) (x : View) (j : Resource) : (s.setView p c x).claim j = s.claim j := rfl
@[simp] theorem State.setView_chanSettings (s : State) (p : Port) (c : Chan) (x : View) (j : Chan) : (s.setView p c x).chanSettings j = s.chanSettings j := rfl
@[simp] theorem State.setView_wakeSet (s : State) (p : Port) (c : Chan) (x : View) (j : Port) : (s.setView p c x).wakeSet j = s.wakeSet j := rfl
@[simp] theorem State.setView_slot (s : State) (p : Port) (c : Chan) (x : View) (j : SlotIdx) : (s.setView p c x).slot j = s.slot j := rfl
@[simp] theorem State.setView_heldCount (s : State) (p : Port) (c : Chan) (x : View) (j : Port) : (s.setView p c x).heldCount j = s.heldCount j := rfl
@[simp] theorem State.setView_queue (s : State) (p : Port) (c : Chan) (x : View) (j : Port) : (s.setView p c x).queue j = s.queue j := rfl
@[simp] theorem State.setView_intLevel (s : State) (p : Port) (c : Chan) (x : View) (j : Port) : (s.setView p c x).intLevel j = s.intLevel j := rfl
@[simp] theorem State.setView_port (s : State) (p : Port) (c : Chan) (x : View) (j : Port) : (s.setView p c x).port j = s.port j := rfl
@[simp] theorem State.setClaim_phase (s : State) (r : Resource) (x : Claim) : (s.setClaim r x).phase = s.phase := rfl
@[simp] theorem State.setClaim_now (s : State) (r : Resource) (x : Claim) : (s.setClaim r x).now = s.now := rfl
@[simp] theorem State.setClaim_lines (s : State) (r : Resource) (x : Claim) : (s.setClaim r x).lines = s.lines := rfl
@[simp] theorem State.setClaim_caps (s : State) (r : Resource) (x : Claim) : (s.setClaim r x).caps = s.caps := rfl
@[simp] theorem State.setClaim_engines (s : State) (r : Resource) (x : Claim) : (s.setClaim r x).engines = s.engines := rfl
@[simp] theorem State.setClaim_rings (s : State) (r : Resource) (x : Claim) : (s.setClaim r x).rings = s.rings := rfl
@[simp] theorem State.setClaim_views (s : State) (r : Resource) (x : Claim) : (s.setClaim r x).views = s.views := rfl
@[simp] theorem State.setClaim_settings (s : State) (r : Resource) (x : Claim) : (s.setClaim r x).settings = s.settings := rfl
@[simp] theorem State.setClaim_device (s : State) (r : Resource) (x : Claim) : (s.setClaim r x).device = s.device := rfl
@[simp] theorem State.setClaim_wake (s : State) (r : Resource) (x : Claim) : (s.setClaim r x).wake = s.wake := rfl
@[simp] theorem State.setClaim_slots (s : State) (r : Resource) (x : Claim) : (s.setClaim r x).slots = s.slots := rfl
@[simp] theorem State.setClaim_held (s : State) (r : Resource) (x : Claim) : (s.setClaim r x).held = s.held := rfl
@[simp] theorem State.setClaim_queues (s : State) (r : Resource) (x : Claim) : (s.setClaim r x).queues = s.queues := rfl
@[simp] theorem State.setClaim_intLine (s : State) (r : Resource) (x : Claim) : (s.setClaim r x).intLine = s.intLine := rfl
@[simp] theorem State.setClaim_ports (s : State) (r : Resource) (x : Claim) : (s.setClaim r x).ports = s.ports := rfl
@[simp] theorem State.setClaim_freeCount (s : State) (r : Resource) (x : Claim) : (s.setClaim r x).freeCount = s.freeCount := rfl
@[simp] theorem State.setClaim_wires (s : State) (r : Resource) (x : Claim) : (s.setClaim r x).wires = s.wires := rfl
@[simp] theorem State.setClaim_resetLow (s : State) (r : Resource) (x : Claim) : (s.setClaim r x).resetLow = s.resetLow := rfl
@[simp] theorem State.setClaim_resetWire (s : State) (r : Resource) (x : Claim) : (s.setClaim r x).resetWire = s.resetWire := rfl
@[simp] theorem State.setClaim_pending (s : State) (r : Resource) (x : Claim) : (s.setClaim r x).pending = s.pending := rfl
@[simp] theorem State.setClaim_chanLines (s : State) (r : Resource) (x : Claim) (j : Chan) : (s.setClaim r x).chanLines j = s.chanLines j := rfl
@[simp] theorem State.setClaim_cap (s : State) (r : Resource) (x : Claim) (j : CapIdx) : (s.setClaim r x).cap j = s.cap j := rfl
@[simp] theorem State.setClaim_engine (s : State) (r : Resource) (x : Claim) (j : Chan) : (s.setClaim r x).engine j = s.engine j := rfl
@[simp] theorem State.setClaim_ring (s : State) (r : Resource) (x : Claim) (j : Chan) : (s.setClaim r x).ring j = s.ring j := rfl
@[simp] theorem State.setClaim_view (s : State) (r : Resource) (x : Claim) (q : Port) (d : Chan) : (s.setClaim r x).view q d = s.view q d := rfl
@[simp] theorem State.setClaim_chanSettings (s : State) (r : Resource) (x : Claim) (j : Chan) : (s.setClaim r x).chanSettings j = s.chanSettings j := rfl
@[simp] theorem State.setClaim_wakeSet (s : State) (r : Resource) (x : Claim) (j : Port) : (s.setClaim r x).wakeSet j = s.wakeSet j := rfl
@[simp] theorem State.setClaim_slot (s : State) (r : Resource) (x : Claim) (j : SlotIdx) : (s.setClaim r x).slot j = s.slot j := rfl
@[simp] theorem State.setClaim_heldCount (s : State) (r : Resource) (x : Claim) (j : Port) : (s.setClaim r x).heldCount j = s.heldCount j := rfl
@[simp] theorem State.setClaim_queue (s : State) (r : Resource) (x : Claim) (j : Port) : (s.setClaim r x).queue j = s.queue j := rfl
@[simp] theorem State.setClaim_intLevel (s : State) (r : Resource) (x : Claim) (j : Port) : (s.setClaim r x).intLevel j = s.intLevel j := rfl
@[simp] theorem State.setClaim_port (s : State) (r : Resource) (x : Claim) (j : Port) : (s.setClaim r x).port j = s.port j := rfl
@[simp] theorem State.setChanSettings_phase (s : State) (c : Chan) (x : ChanSettings) : (s.setChanSettings c x).phase = s.phase := rfl
@[simp] theorem State.setChanSettings_now (s : State) (c : Chan) (x : ChanSettings) : (s.setChanSettings c x).now = s.now := rfl
@[simp] theorem State.setChanSettings_lines (s : State) (c : Chan) (x : ChanSettings) : (s.setChanSettings c x).lines = s.lines := rfl
@[simp] theorem State.setChanSettings_caps (s : State) (c : Chan) (x : ChanSettings) : (s.setChanSettings c x).caps = s.caps := rfl
@[simp] theorem State.setChanSettings_engines (s : State) (c : Chan) (x : ChanSettings) : (s.setChanSettings c x).engines = s.engines := rfl
@[simp] theorem State.setChanSettings_rings (s : State) (c : Chan) (x : ChanSettings) : (s.setChanSettings c x).rings = s.rings := rfl
@[simp] theorem State.setChanSettings_views (s : State) (c : Chan) (x : ChanSettings) : (s.setChanSettings c x).views = s.views := rfl
@[simp] theorem State.setChanSettings_claims (s : State) (c : Chan) (x : ChanSettings) : (s.setChanSettings c x).claims = s.claims := rfl
@[simp] theorem State.setChanSettings_device (s : State) (c : Chan) (x : ChanSettings) : (s.setChanSettings c x).device = s.device := rfl
@[simp] theorem State.setChanSettings_wake (s : State) (c : Chan) (x : ChanSettings) : (s.setChanSettings c x).wake = s.wake := rfl
@[simp] theorem State.setChanSettings_slots (s : State) (c : Chan) (x : ChanSettings) : (s.setChanSettings c x).slots = s.slots := rfl
@[simp] theorem State.setChanSettings_held (s : State) (c : Chan) (x : ChanSettings) : (s.setChanSettings c x).held = s.held := rfl
@[simp] theorem State.setChanSettings_queues (s : State) (c : Chan) (x : ChanSettings) : (s.setChanSettings c x).queues = s.queues := rfl
@[simp] theorem State.setChanSettings_intLine (s : State) (c : Chan) (x : ChanSettings) : (s.setChanSettings c x).intLine = s.intLine := rfl
@[simp] theorem State.setChanSettings_ports (s : State) (c : Chan) (x : ChanSettings) : (s.setChanSettings c x).ports = s.ports := rfl
@[simp] theorem State.setChanSettings_freeCount (s : State) (c : Chan) (x : ChanSettings) : (s.setChanSettings c x).freeCount = s.freeCount := rfl
@[simp] theorem State.setChanSettings_wires (s : State) (c : Chan) (x : ChanSettings) : (s.setChanSettings c x).wires = s.wires := rfl
@[simp] theorem State.setChanSettings_resetLow (s : State) (c : Chan) (x : ChanSettings) : (s.setChanSettings c x).resetLow = s.resetLow := rfl
@[simp] theorem State.setChanSettings_resetWire (s : State) (c : Chan) (x : ChanSettings) : (s.setChanSettings c x).resetWire = s.resetWire := rfl
@[simp] theorem State.setChanSettings_pending (s : State) (c : Chan) (x : ChanSettings) : (s.setChanSettings c x).pending = s.pending := rfl
@[simp] theorem State.setChanSettings_chanLines (s : State) (c : Chan) (x : ChanSettings) (j : Chan) : (s.setChanSettings c x).chanLines j = s.chanLines j := rfl
@[simp] theorem State.setChanSettings_cap (s : State) (c : Chan) (x : ChanSettings) (j : CapIdx) : (s.setChanSettings c x).cap j = s.cap j := rfl
@[simp] theorem State.setChanSettings_engine (s : State) (c : Chan) (x : ChanSettings) (j : Chan) : (s.setChanSettings c x).engine j = s.engine j := rfl
@[simp] theorem State.setChanSettings_ring (s : State) (c : Chan) (x : ChanSettings) (j : Chan) : (s.setChanSettings c x).ring j = s.ring j := rfl
@[simp] theorem State.setChanSettings_view (s : State) (c : Chan) (x : ChanSettings) (q : Port) (d : Chan) : (s.setChanSettings c x).view q d = s.view q d := rfl
@[simp] theorem State.setChanSettings_claim (s : State) (c : Chan) (x : ChanSettings) (j : Resource) : (s.setChanSettings c x).claim j = s.claim j := rfl
@[simp] theorem State.setChanSettings_wakeSet (s : State) (c : Chan) (x : ChanSettings) (j : Port) : (s.setChanSettings c x).wakeSet j = s.wakeSet j := rfl
@[simp] theorem State.setChanSettings_slot (s : State) (c : Chan) (x : ChanSettings) (j : SlotIdx) : (s.setChanSettings c x).slot j = s.slot j := rfl
@[simp] theorem State.setChanSettings_heldCount (s : State) (c : Chan) (x : ChanSettings) (j : Port) : (s.setChanSettings c x).heldCount j = s.heldCount j := rfl
@[simp] theorem State.setChanSettings_queue (s : State) (c : Chan) (x : ChanSettings) (j : Port) : (s.setChanSettings c x).queue j = s.queue j := rfl
@[simp] theorem State.setChanSettings_intLevel (s : State) (c : Chan) (x : ChanSettings) (j : Port) : (s.setChanSettings c x).intLevel j = s.intLevel j := rfl
@[simp] theorem State.setChanSettings_port (s : State) (c : Chan) (x : ChanSettings) (j : Port) : (s.setChanSettings c x).port j = s.port j := rfl
@[simp] theorem State.setDevice_phase (s : State) (x : DeviceSettings) : (s.setDevice x).phase = s.phase := rfl
@[simp] theorem State.setDevice_now (s : State) (x : DeviceSettings) : (s.setDevice x).now = s.now := rfl
@[simp] theorem State.setDevice_lines (s : State) (x : DeviceSettings) : (s.setDevice x).lines = s.lines := rfl
@[simp] theorem State.setDevice_caps (s : State) (x : DeviceSettings) : (s.setDevice x).caps = s.caps := rfl
@[simp] theorem State.setDevice_engines (s : State) (x : DeviceSettings) : (s.setDevice x).engines = s.engines := rfl
@[simp] theorem State.setDevice_rings (s : State) (x : DeviceSettings) : (s.setDevice x).rings = s.rings := rfl
@[simp] theorem State.setDevice_views (s : State) (x : DeviceSettings) : (s.setDevice x).views = s.views := rfl
@[simp] theorem State.setDevice_claims (s : State) (x : DeviceSettings) : (s.setDevice x).claims = s.claims := rfl
@[simp] theorem State.setDevice_settings (s : State) (x : DeviceSettings) : (s.setDevice x).settings = s.settings := rfl
@[simp] theorem State.setDevice_wake (s : State) (x : DeviceSettings) : (s.setDevice x).wake = s.wake := rfl
@[simp] theorem State.setDevice_slots (s : State) (x : DeviceSettings) : (s.setDevice x).slots = s.slots := rfl
@[simp] theorem State.setDevice_held (s : State) (x : DeviceSettings) : (s.setDevice x).held = s.held := rfl
@[simp] theorem State.setDevice_queues (s : State) (x : DeviceSettings) : (s.setDevice x).queues = s.queues := rfl
@[simp] theorem State.setDevice_intLine (s : State) (x : DeviceSettings) : (s.setDevice x).intLine = s.intLine := rfl
@[simp] theorem State.setDevice_ports (s : State) (x : DeviceSettings) : (s.setDevice x).ports = s.ports := rfl
@[simp] theorem State.setDevice_freeCount (s : State) (x : DeviceSettings) : (s.setDevice x).freeCount = s.freeCount := rfl
@[simp] theorem State.setDevice_wires (s : State) (x : DeviceSettings) : (s.setDevice x).wires = s.wires := rfl
@[simp] theorem State.setDevice_resetLow (s : State) (x : DeviceSettings) : (s.setDevice x).resetLow = s.resetLow := rfl
@[simp] theorem State.setDevice_resetWire (s : State) (x : DeviceSettings) : (s.setDevice x).resetWire = s.resetWire := rfl
@[simp] theorem State.setDevice_pending (s : State) (x : DeviceSettings) : (s.setDevice x).pending = s.pending := rfl
@[simp] theorem State.setDevice_chanLines (s : State) (x : DeviceSettings) (j : Chan) : (s.setDevice x).chanLines j = s.chanLines j := rfl
@[simp] theorem State.setDevice_cap (s : State) (x : DeviceSettings) (j : CapIdx) : (s.setDevice x).cap j = s.cap j := rfl
@[simp] theorem State.setDevice_engine (s : State) (x : DeviceSettings) (j : Chan) : (s.setDevice x).engine j = s.engine j := rfl
@[simp] theorem State.setDevice_ring (s : State) (x : DeviceSettings) (j : Chan) : (s.setDevice x).ring j = s.ring j := rfl
@[simp] theorem State.setDevice_view (s : State) (x : DeviceSettings) (q : Port) (d : Chan) : (s.setDevice x).view q d = s.view q d := rfl
@[simp] theorem State.setDevice_claim (s : State) (x : DeviceSettings) (j : Resource) : (s.setDevice x).claim j = s.claim j := rfl
@[simp] theorem State.setDevice_chanSettings (s : State) (x : DeviceSettings) (j : Chan) : (s.setDevice x).chanSettings j = s.chanSettings j := rfl
@[simp] theorem State.setDevice_wakeSet (s : State) (x : DeviceSettings) (j : Port) : (s.setDevice x).wakeSet j = s.wakeSet j := rfl
@[simp] theorem State.setDevice_slot (s : State) (x : DeviceSettings) (j : SlotIdx) : (s.setDevice x).slot j = s.slot j := rfl
@[simp] theorem State.setDevice_heldCount (s : State) (x : DeviceSettings) (j : Port) : (s.setDevice x).heldCount j = s.heldCount j := rfl
@[simp] theorem State.setDevice_queue (s : State) (x : DeviceSettings) (j : Port) : (s.setDevice x).queue j = s.queue j := rfl
@[simp] theorem State.setDevice_intLevel (s : State) (x : DeviceSettings) (j : Port) : (s.setDevice x).intLevel j = s.intLevel j := rfl
@[simp] theorem State.setDevice_port (s : State) (x : DeviceSettings) (j : Port) : (s.setDevice x).port j = s.port j := rfl
@[simp] theorem State.setWakeSet_phase (s : State) (p : Port) (x : BitVec 12) : (s.setWakeSet p x).phase = s.phase := rfl
@[simp] theorem State.setWakeSet_now (s : State) (p : Port) (x : BitVec 12) : (s.setWakeSet p x).now = s.now := rfl
@[simp] theorem State.setWakeSet_lines (s : State) (p : Port) (x : BitVec 12) : (s.setWakeSet p x).lines = s.lines := rfl
@[simp] theorem State.setWakeSet_caps (s : State) (p : Port) (x : BitVec 12) : (s.setWakeSet p x).caps = s.caps := rfl
@[simp] theorem State.setWakeSet_engines (s : State) (p : Port) (x : BitVec 12) : (s.setWakeSet p x).engines = s.engines := rfl
@[simp] theorem State.setWakeSet_rings (s : State) (p : Port) (x : BitVec 12) : (s.setWakeSet p x).rings = s.rings := rfl
@[simp] theorem State.setWakeSet_views (s : State) (p : Port) (x : BitVec 12) : (s.setWakeSet p x).views = s.views := rfl
@[simp] theorem State.setWakeSet_claims (s : State) (p : Port) (x : BitVec 12) : (s.setWakeSet p x).claims = s.claims := rfl
@[simp] theorem State.setWakeSet_settings (s : State) (p : Port) (x : BitVec 12) : (s.setWakeSet p x).settings = s.settings := rfl
@[simp] theorem State.setWakeSet_device (s : State) (p : Port) (x : BitVec 12) : (s.setWakeSet p x).device = s.device := rfl
@[simp] theorem State.setWakeSet_slots (s : State) (p : Port) (x : BitVec 12) : (s.setWakeSet p x).slots = s.slots := rfl
@[simp] theorem State.setWakeSet_held (s : State) (p : Port) (x : BitVec 12) : (s.setWakeSet p x).held = s.held := rfl
@[simp] theorem State.setWakeSet_queues (s : State) (p : Port) (x : BitVec 12) : (s.setWakeSet p x).queues = s.queues := rfl
@[simp] theorem State.setWakeSet_intLine (s : State) (p : Port) (x : BitVec 12) : (s.setWakeSet p x).intLine = s.intLine := rfl
@[simp] theorem State.setWakeSet_ports (s : State) (p : Port) (x : BitVec 12) : (s.setWakeSet p x).ports = s.ports := rfl
@[simp] theorem State.setWakeSet_freeCount (s : State) (p : Port) (x : BitVec 12) : (s.setWakeSet p x).freeCount = s.freeCount := rfl
@[simp] theorem State.setWakeSet_wires (s : State) (p : Port) (x : BitVec 12) : (s.setWakeSet p x).wires = s.wires := rfl
@[simp] theorem State.setWakeSet_resetLow (s : State) (p : Port) (x : BitVec 12) : (s.setWakeSet p x).resetLow = s.resetLow := rfl
@[simp] theorem State.setWakeSet_resetWire (s : State) (p : Port) (x : BitVec 12) : (s.setWakeSet p x).resetWire = s.resetWire := rfl
@[simp] theorem State.setWakeSet_pending (s : State) (p : Port) (x : BitVec 12) : (s.setWakeSet p x).pending = s.pending := rfl
@[simp] theorem State.setWakeSet_chanLines (s : State) (p : Port) (x : BitVec 12) (j : Chan) : (s.setWakeSet p x).chanLines j = s.chanLines j := rfl
@[simp] theorem State.setWakeSet_cap (s : State) (p : Port) (x : BitVec 12) (j : CapIdx) : (s.setWakeSet p x).cap j = s.cap j := rfl
@[simp] theorem State.setWakeSet_engine (s : State) (p : Port) (x : BitVec 12) (j : Chan) : (s.setWakeSet p x).engine j = s.engine j := rfl
@[simp] theorem State.setWakeSet_ring (s : State) (p : Port) (x : BitVec 12) (j : Chan) : (s.setWakeSet p x).ring j = s.ring j := rfl
@[simp] theorem State.setWakeSet_view (s : State) (p : Port) (x : BitVec 12) (q : Port) (d : Chan) : (s.setWakeSet p x).view q d = s.view q d := rfl
@[simp] theorem State.setWakeSet_claim (s : State) (p : Port) (x : BitVec 12) (j : Resource) : (s.setWakeSet p x).claim j = s.claim j := rfl
@[simp] theorem State.setWakeSet_chanSettings (s : State) (p : Port) (x : BitVec 12) (j : Chan) : (s.setWakeSet p x).chanSettings j = s.chanSettings j := rfl
@[simp] theorem State.setWakeSet_slot (s : State) (p : Port) (x : BitVec 12) (j : SlotIdx) : (s.setWakeSet p x).slot j = s.slot j := rfl
@[simp] theorem State.setWakeSet_heldCount (s : State) (p : Port) (x : BitVec 12) (j : Port) : (s.setWakeSet p x).heldCount j = s.heldCount j := rfl
@[simp] theorem State.setWakeSet_queue (s : State) (p : Port) (x : BitVec 12) (j : Port) : (s.setWakeSet p x).queue j = s.queue j := rfl
@[simp] theorem State.setWakeSet_intLevel (s : State) (p : Port) (x : BitVec 12) (j : Port) : (s.setWakeSet p x).intLevel j = s.intLevel j := rfl
@[simp] theorem State.setWakeSet_port (s : State) (p : Port) (x : BitVec 12) (j : Port) : (s.setWakeSet p x).port j = s.port j := rfl
@[simp] theorem State.setSlot_phase (s : State) (i : SlotIdx) (x : Slot) : (s.setSlot i x).phase = s.phase := rfl
@[simp] theorem State.setSlot_now (s : State) (i : SlotIdx) (x : Slot) : (s.setSlot i x).now = s.now := rfl
@[simp] theorem State.setSlot_lines (s : State) (i : SlotIdx) (x : Slot) : (s.setSlot i x).lines = s.lines := rfl
@[simp] theorem State.setSlot_caps (s : State) (i : SlotIdx) (x : Slot) : (s.setSlot i x).caps = s.caps := rfl
@[simp] theorem State.setSlot_engines (s : State) (i : SlotIdx) (x : Slot) : (s.setSlot i x).engines = s.engines := rfl
@[simp] theorem State.setSlot_rings (s : State) (i : SlotIdx) (x : Slot) : (s.setSlot i x).rings = s.rings := rfl
@[simp] theorem State.setSlot_views (s : State) (i : SlotIdx) (x : Slot) : (s.setSlot i x).views = s.views := rfl
@[simp] theorem State.setSlot_claims (s : State) (i : SlotIdx) (x : Slot) : (s.setSlot i x).claims = s.claims := rfl
@[simp] theorem State.setSlot_settings (s : State) (i : SlotIdx) (x : Slot) : (s.setSlot i x).settings = s.settings := rfl
@[simp] theorem State.setSlot_device (s : State) (i : SlotIdx) (x : Slot) : (s.setSlot i x).device = s.device := rfl
@[simp] theorem State.setSlot_wake (s : State) (i : SlotIdx) (x : Slot) : (s.setSlot i x).wake = s.wake := rfl
@[simp] theorem State.setSlot_held (s : State) (i : SlotIdx) (x : Slot) : (s.setSlot i x).held = s.held := rfl
@[simp] theorem State.setSlot_queues (s : State) (i : SlotIdx) (x : Slot) : (s.setSlot i x).queues = s.queues := rfl
@[simp] theorem State.setSlot_intLine (s : State) (i : SlotIdx) (x : Slot) : (s.setSlot i x).intLine = s.intLine := rfl
@[simp] theorem State.setSlot_ports (s : State) (i : SlotIdx) (x : Slot) : (s.setSlot i x).ports = s.ports := rfl
@[simp] theorem State.setSlot_freeCount (s : State) (i : SlotIdx) (x : Slot) : (s.setSlot i x).freeCount = s.freeCount := rfl
@[simp] theorem State.setSlot_wires (s : State) (i : SlotIdx) (x : Slot) : (s.setSlot i x).wires = s.wires := rfl
@[simp] theorem State.setSlot_resetLow (s : State) (i : SlotIdx) (x : Slot) : (s.setSlot i x).resetLow = s.resetLow := rfl
@[simp] theorem State.setSlot_resetWire (s : State) (i : SlotIdx) (x : Slot) : (s.setSlot i x).resetWire = s.resetWire := rfl
@[simp] theorem State.setSlot_pending (s : State) (i : SlotIdx) (x : Slot) : (s.setSlot i x).pending = s.pending := rfl
@[simp] theorem State.setSlot_chanLines (s : State) (i : SlotIdx) (x : Slot) (j : Chan) : (s.setSlot i x).chanLines j = s.chanLines j := rfl
@[simp] theorem State.setSlot_cap (s : State) (i : SlotIdx) (x : Slot) (j : CapIdx) : (s.setSlot i x).cap j = s.cap j := rfl
@[simp] theorem State.setSlot_engine (s : State) (i : SlotIdx) (x : Slot) (j : Chan) : (s.setSlot i x).engine j = s.engine j := rfl
@[simp] theorem State.setSlot_ring (s : State) (i : SlotIdx) (x : Slot) (j : Chan) : (s.setSlot i x).ring j = s.ring j := rfl
@[simp] theorem State.setSlot_view (s : State) (i : SlotIdx) (x : Slot) (q : Port) (d : Chan) : (s.setSlot i x).view q d = s.view q d := rfl
@[simp] theorem State.setSlot_claim (s : State) (i : SlotIdx) (x : Slot) (j : Resource) : (s.setSlot i x).claim j = s.claim j := rfl
@[simp] theorem State.setSlot_chanSettings (s : State) (i : SlotIdx) (x : Slot) (j : Chan) : (s.setSlot i x).chanSettings j = s.chanSettings j := rfl
@[simp] theorem State.setSlot_wakeSet (s : State) (i : SlotIdx) (x : Slot) (j : Port) : (s.setSlot i x).wakeSet j = s.wakeSet j := rfl
@[simp] theorem State.setSlot_heldCount (s : State) (i : SlotIdx) (x : Slot) (j : Port) : (s.setSlot i x).heldCount j = s.heldCount j := rfl
@[simp] theorem State.setSlot_queue (s : State) (i : SlotIdx) (x : Slot) (j : Port) : (s.setSlot i x).queue j = s.queue j := rfl
@[simp] theorem State.setSlot_intLevel (s : State) (i : SlotIdx) (x : Slot) (j : Port) : (s.setSlot i x).intLevel j = s.intLevel j := rfl
@[simp] theorem State.setSlot_port (s : State) (i : SlotIdx) (x : Slot) (j : Port) : (s.setSlot i x).port j = s.port j := rfl
@[simp] theorem State.setHeldCount_phase (s : State) (p : Port) (x : Nat) : (s.setHeldCount p x).phase = s.phase := rfl
@[simp] theorem State.setHeldCount_now (s : State) (p : Port) (x : Nat) : (s.setHeldCount p x).now = s.now := rfl
@[simp] theorem State.setHeldCount_lines (s : State) (p : Port) (x : Nat) : (s.setHeldCount p x).lines = s.lines := rfl
@[simp] theorem State.setHeldCount_caps (s : State) (p : Port) (x : Nat) : (s.setHeldCount p x).caps = s.caps := rfl
@[simp] theorem State.setHeldCount_engines (s : State) (p : Port) (x : Nat) : (s.setHeldCount p x).engines = s.engines := rfl
@[simp] theorem State.setHeldCount_rings (s : State) (p : Port) (x : Nat) : (s.setHeldCount p x).rings = s.rings := rfl
@[simp] theorem State.setHeldCount_views (s : State) (p : Port) (x : Nat) : (s.setHeldCount p x).views = s.views := rfl
@[simp] theorem State.setHeldCount_claims (s : State) (p : Port) (x : Nat) : (s.setHeldCount p x).claims = s.claims := rfl
@[simp] theorem State.setHeldCount_settings (s : State) (p : Port) (x : Nat) : (s.setHeldCount p x).settings = s.settings := rfl
@[simp] theorem State.setHeldCount_device (s : State) (p : Port) (x : Nat) : (s.setHeldCount p x).device = s.device := rfl
@[simp] theorem State.setHeldCount_wake (s : State) (p : Port) (x : Nat) : (s.setHeldCount p x).wake = s.wake := rfl
@[simp] theorem State.setHeldCount_slots (s : State) (p : Port) (x : Nat) : (s.setHeldCount p x).slots = s.slots := rfl
@[simp] theorem State.setHeldCount_queues (s : State) (p : Port) (x : Nat) : (s.setHeldCount p x).queues = s.queues := rfl
@[simp] theorem State.setHeldCount_intLine (s : State) (p : Port) (x : Nat) : (s.setHeldCount p x).intLine = s.intLine := rfl
@[simp] theorem State.setHeldCount_ports (s : State) (p : Port) (x : Nat) : (s.setHeldCount p x).ports = s.ports := rfl
@[simp] theorem State.setHeldCount_freeCount (s : State) (p : Port) (x : Nat) : (s.setHeldCount p x).freeCount = s.freeCount := rfl
@[simp] theorem State.setHeldCount_wires (s : State) (p : Port) (x : Nat) : (s.setHeldCount p x).wires = s.wires := rfl
@[simp] theorem State.setHeldCount_resetLow (s : State) (p : Port) (x : Nat) : (s.setHeldCount p x).resetLow = s.resetLow := rfl
@[simp] theorem State.setHeldCount_resetWire (s : State) (p : Port) (x : Nat) : (s.setHeldCount p x).resetWire = s.resetWire := rfl
@[simp] theorem State.setHeldCount_pending (s : State) (p : Port) (x : Nat) : (s.setHeldCount p x).pending = s.pending := rfl
@[simp] theorem State.setHeldCount_chanLines (s : State) (p : Port) (x : Nat) (j : Chan) : (s.setHeldCount p x).chanLines j = s.chanLines j := rfl
@[simp] theorem State.setHeldCount_cap (s : State) (p : Port) (x : Nat) (j : CapIdx) : (s.setHeldCount p x).cap j = s.cap j := rfl
@[simp] theorem State.setHeldCount_engine (s : State) (p : Port) (x : Nat) (j : Chan) : (s.setHeldCount p x).engine j = s.engine j := rfl
@[simp] theorem State.setHeldCount_ring (s : State) (p : Port) (x : Nat) (j : Chan) : (s.setHeldCount p x).ring j = s.ring j := rfl
@[simp] theorem State.setHeldCount_view (s : State) (p : Port) (x : Nat) (q : Port) (d : Chan) : (s.setHeldCount p x).view q d = s.view q d := rfl
@[simp] theorem State.setHeldCount_claim (s : State) (p : Port) (x : Nat) (j : Resource) : (s.setHeldCount p x).claim j = s.claim j := rfl
@[simp] theorem State.setHeldCount_chanSettings (s : State) (p : Port) (x : Nat) (j : Chan) : (s.setHeldCount p x).chanSettings j = s.chanSettings j := rfl
@[simp] theorem State.setHeldCount_wakeSet (s : State) (p : Port) (x : Nat) (j : Port) : (s.setHeldCount p x).wakeSet j = s.wakeSet j := rfl
@[simp] theorem State.setHeldCount_slot (s : State) (p : Port) (x : Nat) (j : SlotIdx) : (s.setHeldCount p x).slot j = s.slot j := rfl
@[simp] theorem State.setHeldCount_queue (s : State) (p : Port) (x : Nat) (j : Port) : (s.setHeldCount p x).queue j = s.queue j := rfl
@[simp] theorem State.setHeldCount_intLevel (s : State) (p : Port) (x : Nat) (j : Port) : (s.setHeldCount p x).intLevel j = s.intLevel j := rfl
@[simp] theorem State.setHeldCount_port (s : State) (p : Port) (x : Nat) (j : Port) : (s.setHeldCount p x).port j = s.port j := rfl
@[simp] theorem State.setQueue_phase (s : State) (p : Port) (x : Queue) : (s.setQueue p x).phase = s.phase := rfl
@[simp] theorem State.setQueue_now (s : State) (p : Port) (x : Queue) : (s.setQueue p x).now = s.now := rfl
@[simp] theorem State.setQueue_lines (s : State) (p : Port) (x : Queue) : (s.setQueue p x).lines = s.lines := rfl
@[simp] theorem State.setQueue_caps (s : State) (p : Port) (x : Queue) : (s.setQueue p x).caps = s.caps := rfl
@[simp] theorem State.setQueue_engines (s : State) (p : Port) (x : Queue) : (s.setQueue p x).engines = s.engines := rfl
@[simp] theorem State.setQueue_rings (s : State) (p : Port) (x : Queue) : (s.setQueue p x).rings = s.rings := rfl
@[simp] theorem State.setQueue_views (s : State) (p : Port) (x : Queue) : (s.setQueue p x).views = s.views := rfl
@[simp] theorem State.setQueue_claims (s : State) (p : Port) (x : Queue) : (s.setQueue p x).claims = s.claims := rfl
@[simp] theorem State.setQueue_settings (s : State) (p : Port) (x : Queue) : (s.setQueue p x).settings = s.settings := rfl
@[simp] theorem State.setQueue_device (s : State) (p : Port) (x : Queue) : (s.setQueue p x).device = s.device := rfl
@[simp] theorem State.setQueue_wake (s : State) (p : Port) (x : Queue) : (s.setQueue p x).wake = s.wake := rfl
@[simp] theorem State.setQueue_slots (s : State) (p : Port) (x : Queue) : (s.setQueue p x).slots = s.slots := rfl
@[simp] theorem State.setQueue_held (s : State) (p : Port) (x : Queue) : (s.setQueue p x).held = s.held := rfl
@[simp] theorem State.setQueue_intLine (s : State) (p : Port) (x : Queue) : (s.setQueue p x).intLine = s.intLine := rfl
@[simp] theorem State.setQueue_ports (s : State) (p : Port) (x : Queue) : (s.setQueue p x).ports = s.ports := rfl
@[simp] theorem State.setQueue_freeCount (s : State) (p : Port) (x : Queue) : (s.setQueue p x).freeCount = s.freeCount := rfl
@[simp] theorem State.setQueue_wires (s : State) (p : Port) (x : Queue) : (s.setQueue p x).wires = s.wires := rfl
@[simp] theorem State.setQueue_resetLow (s : State) (p : Port) (x : Queue) : (s.setQueue p x).resetLow = s.resetLow := rfl
@[simp] theorem State.setQueue_resetWire (s : State) (p : Port) (x : Queue) : (s.setQueue p x).resetWire = s.resetWire := rfl
@[simp] theorem State.setQueue_pending (s : State) (p : Port) (x : Queue) : (s.setQueue p x).pending = s.pending := rfl
@[simp] theorem State.setQueue_chanLines (s : State) (p : Port) (x : Queue) (j : Chan) : (s.setQueue p x).chanLines j = s.chanLines j := rfl
@[simp] theorem State.setQueue_cap (s : State) (p : Port) (x : Queue) (j : CapIdx) : (s.setQueue p x).cap j = s.cap j := rfl
@[simp] theorem State.setQueue_engine (s : State) (p : Port) (x : Queue) (j : Chan) : (s.setQueue p x).engine j = s.engine j := rfl
@[simp] theorem State.setQueue_ring (s : State) (p : Port) (x : Queue) (j : Chan) : (s.setQueue p x).ring j = s.ring j := rfl
@[simp] theorem State.setQueue_view (s : State) (p : Port) (x : Queue) (q : Port) (d : Chan) : (s.setQueue p x).view q d = s.view q d := rfl
@[simp] theorem State.setQueue_claim (s : State) (p : Port) (x : Queue) (j : Resource) : (s.setQueue p x).claim j = s.claim j := rfl
@[simp] theorem State.setQueue_chanSettings (s : State) (p : Port) (x : Queue) (j : Chan) : (s.setQueue p x).chanSettings j = s.chanSettings j := rfl
@[simp] theorem State.setQueue_wakeSet (s : State) (p : Port) (x : Queue) (j : Port) : (s.setQueue p x).wakeSet j = s.wakeSet j := rfl
@[simp] theorem State.setQueue_slot (s : State) (p : Port) (x : Queue) (j : SlotIdx) : (s.setQueue p x).slot j = s.slot j := rfl
@[simp] theorem State.setQueue_heldCount (s : State) (p : Port) (x : Queue) (j : Port) : (s.setQueue p x).heldCount j = s.heldCount j := rfl
@[simp] theorem State.setQueue_intLevel (s : State) (p : Port) (x : Queue) (j : Port) : (s.setQueue p x).intLevel j = s.intLevel j := rfl
@[simp] theorem State.setQueue_port (s : State) (p : Port) (x : Queue) (j : Port) : (s.setQueue p x).port j = s.port j := rfl
@[simp] theorem State.setIntLevel_phase (s : State) (p : Port) (x : Level) : (s.setIntLevel p x).phase = s.phase := rfl
@[simp] theorem State.setIntLevel_now (s : State) (p : Port) (x : Level) : (s.setIntLevel p x).now = s.now := rfl
@[simp] theorem State.setIntLevel_lines (s : State) (p : Port) (x : Level) : (s.setIntLevel p x).lines = s.lines := rfl
@[simp] theorem State.setIntLevel_caps (s : State) (p : Port) (x : Level) : (s.setIntLevel p x).caps = s.caps := rfl
@[simp] theorem State.setIntLevel_engines (s : State) (p : Port) (x : Level) : (s.setIntLevel p x).engines = s.engines := rfl
@[simp] theorem State.setIntLevel_rings (s : State) (p : Port) (x : Level) : (s.setIntLevel p x).rings = s.rings := rfl
@[simp] theorem State.setIntLevel_views (s : State) (p : Port) (x : Level) : (s.setIntLevel p x).views = s.views := rfl
@[simp] theorem State.setIntLevel_claims (s : State) (p : Port) (x : Level) : (s.setIntLevel p x).claims = s.claims := rfl
@[simp] theorem State.setIntLevel_settings (s : State) (p : Port) (x : Level) : (s.setIntLevel p x).settings = s.settings := rfl
@[simp] theorem State.setIntLevel_device (s : State) (p : Port) (x : Level) : (s.setIntLevel p x).device = s.device := rfl
@[simp] theorem State.setIntLevel_wake (s : State) (p : Port) (x : Level) : (s.setIntLevel p x).wake = s.wake := rfl
@[simp] theorem State.setIntLevel_slots (s : State) (p : Port) (x : Level) : (s.setIntLevel p x).slots = s.slots := rfl
@[simp] theorem State.setIntLevel_held (s : State) (p : Port) (x : Level) : (s.setIntLevel p x).held = s.held := rfl
@[simp] theorem State.setIntLevel_queues (s : State) (p : Port) (x : Level) : (s.setIntLevel p x).queues = s.queues := rfl
@[simp] theorem State.setIntLevel_ports (s : State) (p : Port) (x : Level) : (s.setIntLevel p x).ports = s.ports := rfl
@[simp] theorem State.setIntLevel_freeCount (s : State) (p : Port) (x : Level) : (s.setIntLevel p x).freeCount = s.freeCount := rfl
@[simp] theorem State.setIntLevel_wires (s : State) (p : Port) (x : Level) : (s.setIntLevel p x).wires = s.wires := rfl
@[simp] theorem State.setIntLevel_resetLow (s : State) (p : Port) (x : Level) : (s.setIntLevel p x).resetLow = s.resetLow := rfl
@[simp] theorem State.setIntLevel_resetWire (s : State) (p : Port) (x : Level) : (s.setIntLevel p x).resetWire = s.resetWire := rfl
@[simp] theorem State.setIntLevel_pending (s : State) (p : Port) (x : Level) : (s.setIntLevel p x).pending = s.pending := rfl
@[simp] theorem State.setIntLevel_chanLines (s : State) (p : Port) (x : Level) (j : Chan) : (s.setIntLevel p x).chanLines j = s.chanLines j := rfl
@[simp] theorem State.setIntLevel_cap (s : State) (p : Port) (x : Level) (j : CapIdx) : (s.setIntLevel p x).cap j = s.cap j := rfl
@[simp] theorem State.setIntLevel_engine (s : State) (p : Port) (x : Level) (j : Chan) : (s.setIntLevel p x).engine j = s.engine j := rfl
@[simp] theorem State.setIntLevel_ring (s : State) (p : Port) (x : Level) (j : Chan) : (s.setIntLevel p x).ring j = s.ring j := rfl
@[simp] theorem State.setIntLevel_view (s : State) (p : Port) (x : Level) (q : Port) (d : Chan) : (s.setIntLevel p x).view q d = s.view q d := rfl
@[simp] theorem State.setIntLevel_claim (s : State) (p : Port) (x : Level) (j : Resource) : (s.setIntLevel p x).claim j = s.claim j := rfl
@[simp] theorem State.setIntLevel_chanSettings (s : State) (p : Port) (x : Level) (j : Chan) : (s.setIntLevel p x).chanSettings j = s.chanSettings j := rfl
@[simp] theorem State.setIntLevel_wakeSet (s : State) (p : Port) (x : Level) (j : Port) : (s.setIntLevel p x).wakeSet j = s.wakeSet j := rfl
@[simp] theorem State.setIntLevel_slot (s : State) (p : Port) (x : Level) (j : SlotIdx) : (s.setIntLevel p x).slot j = s.slot j := rfl
@[simp] theorem State.setIntLevel_heldCount (s : State) (p : Port) (x : Level) (j : Port) : (s.setIntLevel p x).heldCount j = s.heldCount j := rfl
@[simp] theorem State.setIntLevel_queue (s : State) (p : Port) (x : Level) (j : Port) : (s.setIntLevel p x).queue j = s.queue j := rfl
@[simp] theorem State.setIntLevel_port (s : State) (p : Port) (x : Level) (j : Port) : (s.setIntLevel p x).port j = s.port j := rfl
@[simp] theorem State.setPort_phase (s : State) (p : Port) (x : PortIf) : (s.setPort p x).phase = s.phase := rfl
@[simp] theorem State.setPort_now (s : State) (p : Port) (x : PortIf) : (s.setPort p x).now = s.now := rfl
@[simp] theorem State.setPort_lines (s : State) (p : Port) (x : PortIf) : (s.setPort p x).lines = s.lines := rfl
@[simp] theorem State.setPort_caps (s : State) (p : Port) (x : PortIf) : (s.setPort p x).caps = s.caps := rfl
@[simp] theorem State.setPort_engines (s : State) (p : Port) (x : PortIf) : (s.setPort p x).engines = s.engines := rfl
@[simp] theorem State.setPort_rings (s : State) (p : Port) (x : PortIf) : (s.setPort p x).rings = s.rings := rfl
@[simp] theorem State.setPort_views (s : State) (p : Port) (x : PortIf) : (s.setPort p x).views = s.views := rfl
@[simp] theorem State.setPort_claims (s : State) (p : Port) (x : PortIf) : (s.setPort p x).claims = s.claims := rfl
@[simp] theorem State.setPort_settings (s : State) (p : Port) (x : PortIf) : (s.setPort p x).settings = s.settings := rfl
@[simp] theorem State.setPort_device (s : State) (p : Port) (x : PortIf) : (s.setPort p x).device = s.device := rfl
@[simp] theorem State.setPort_wake (s : State) (p : Port) (x : PortIf) : (s.setPort p x).wake = s.wake := rfl
@[simp] theorem State.setPort_slots (s : State) (p : Port) (x : PortIf) : (s.setPort p x).slots = s.slots := rfl
@[simp] theorem State.setPort_held (s : State) (p : Port) (x : PortIf) : (s.setPort p x).held = s.held := rfl
@[simp] theorem State.setPort_queues (s : State) (p : Port) (x : PortIf) : (s.setPort p x).queues = s.queues := rfl
@[simp] theorem State.setPort_intLine (s : State) (p : Port) (x : PortIf) : (s.setPort p x).intLine = s.intLine := rfl
@[simp] theorem State.setPort_freeCount (s : State) (p : Port) (x : PortIf) : (s.setPort p x).freeCount = s.freeCount := rfl
@[simp] theorem State.setPort_wires (s : State) (p : Port) (x : PortIf) : (s.setPort p x).wires = s.wires := rfl
@[simp] theorem State.setPort_resetLow (s : State) (p : Port) (x : PortIf) : (s.setPort p x).resetLow = s.resetLow := rfl
@[simp] theorem State.setPort_resetWire (s : State) (p : Port) (x : PortIf) : (s.setPort p x).resetWire = s.resetWire := rfl
@[simp] theorem State.setPort_pending (s : State) (p : Port) (x : PortIf) : (s.setPort p x).pending = s.pending := rfl
@[simp] theorem State.setPort_chanLines (s : State) (p : Port) (x : PortIf) (j : Chan) : (s.setPort p x).chanLines j = s.chanLines j := rfl
@[simp] theorem State.setPort_cap (s : State) (p : Port) (x : PortIf) (j : CapIdx) : (s.setPort p x).cap j = s.cap j := rfl
@[simp] theorem State.setPort_engine (s : State) (p : Port) (x : PortIf) (j : Chan) : (s.setPort p x).engine j = s.engine j := rfl
@[simp] theorem State.setPort_ring (s : State) (p : Port) (x : PortIf) (j : Chan) : (s.setPort p x).ring j = s.ring j := rfl
@[simp] theorem State.setPort_view (s : State) (p : Port) (x : PortIf) (q : Port) (d : Chan) : (s.setPort p x).view q d = s.view q d := rfl
@[simp] theorem State.setPort_claim (s : State) (p : Port) (x : PortIf) (j : Resource) : (s.setPort p x).claim j = s.claim j := rfl
@[simp] theorem State.setPort_chanSettings (s : State) (p : Port) (x : PortIf) (j : Chan) : (s.setPort p x).chanSettings j = s.chanSettings j := rfl
@[simp] theorem State.setPort_wakeSet (s : State) (p : Port) (x : PortIf) (j : Port) : (s.setPort p x).wakeSet j = s.wakeSet j := rfl
@[simp] theorem State.setPort_slot (s : State) (p : Port) (x : PortIf) (j : SlotIdx) : (s.setPort p x).slot j = s.slot j := rfl
@[simp] theorem State.setPort_heldCount (s : State) (p : Port) (x : PortIf) (j : Port) : (s.setPort p x).heldCount j = s.heldCount j := rfl
@[simp] theorem State.setPort_queue (s : State) (p : Port) (x : PortIf) (j : Port) : (s.setPort p x).queue j = s.queue j := rfl
@[simp] theorem State.setPort_intLevel (s : State) (p : Port) (x : PortIf) (j : Port) : (s.setPort p x).intLevel j = s.intLevel j := rfl

/-! ### An entry after its own update -/

@[simp] theorem State.chanLines_setChanLines_self (s : State) (c : Chan) (x : ChanLines) :
    (s.setChanLines c x).chanLines c = x := tget_tset_self _ _ _

theorem State.chanLines_setChanLines (s : State) (c j : Chan) (x : ChanLines) :
    (s.setChanLines c x).chanLines j = if c = j then x else s.chanLines j := tget_tset _ _ _ _

@[simp] theorem State.cap_setCap_self (s : State) (n : CapIdx) (x : CapConditioner) :
    (s.setCap n x).cap n = x := tget_tset_self _ _ _

theorem State.cap_setCap (s : State) (n j : CapIdx) (x : CapConditioner) :
    (s.setCap n x).cap j = if n = j then x else s.cap j := tget_tset _ _ _ _

@[simp] theorem State.engine_setEngine_self (s : State) (c : Chan) (x : Engine) :
    (s.setEngine c x).engine c = x := tget_tset_self _ _ _

theorem State.engine_setEngine (s : State) (c j : Chan) (x : Engine) :
    (s.setEngine c x).engine j = if c = j then x else s.engine j := tget_tset _ _ _ _

@[simp] theorem State.ring_setRing_self (s : State) (c : Chan) (x : Ring) :
    (s.setRing c x).ring c = x := tget_tset_self _ _ _

theorem State.ring_setRing (s : State) (c j : Chan) (x : Ring) :
    (s.setRing c x).ring j = if c = j then x else s.ring j := tget_tset _ _ _ _

@[simp] theorem State.claim_setClaim_self (s : State) (r : Resource) (x : Claim) :
    (s.setClaim r x).claim r = x := tget_tset_self _ _ _

theorem State.claim_setClaim (s : State) (r j : Resource) (x : Claim) :
    (s.setClaim r x).claim j = if r = j then x else s.claim j := tget_tset _ _ _ _

@[simp] theorem State.chanSettings_setChanSettings_self (s : State) (c : Chan) (x : ChanSettings) :
    (s.setChanSettings c x).chanSettings c = x := tget_tset_self _ _ _

theorem State.chanSettings_setChanSettings (s : State) (c j : Chan) (x : ChanSettings) :
    (s.setChanSettings c x).chanSettings j = if c = j then x else s.chanSettings j := tget_tset _ _ _ _

@[simp] theorem State.wakeSet_setWakeSet_self (s : State) (p : Port) (x : BitVec 12) :
    (s.setWakeSet p x).wakeSet p = x := tget_tset_self _ _ _

theorem State.wakeSet_setWakeSet (s : State) (p j : Port) (x : BitVec 12) :
    (s.setWakeSet p x).wakeSet j = if p = j then x else s.wakeSet j := tget_tset _ _ _ _

@[simp] theorem State.slot_setSlot_self (s : State) (i : SlotIdx) (x : Slot) :
    (s.setSlot i x).slot i = x := tget_tset_self _ _ _

theorem State.slot_setSlot (s : State) (i j : SlotIdx) (x : Slot) :
    (s.setSlot i x).slot j = if i = j then x else s.slot j := tget_tset _ _ _ _

@[simp] theorem State.heldCount_setHeldCount_self (s : State) (p : Port) (x : Nat) :
    (s.setHeldCount p x).heldCount p = x := tget_tset_self _ _ _

theorem State.heldCount_setHeldCount (s : State) (p j : Port) (x : Nat) :
    (s.setHeldCount p x).heldCount j = if p = j then x else s.heldCount j := tget_tset _ _ _ _

@[simp] theorem State.queue_setQueue_self (s : State) (p : Port) (x : Queue) :
    (s.setQueue p x).queue p = x := tget_tset_self _ _ _

theorem State.queue_setQueue (s : State) (p j : Port) (x : Queue) :
    (s.setQueue p x).queue j = if p = j then x else s.queue j := tget_tset _ _ _ _

@[simp] theorem State.intLevel_setIntLevel_self (s : State) (p : Port) (x : Level) :
    (s.setIntLevel p x).intLevel p = x := tget_tset_self _ _ _

theorem State.intLevel_setIntLevel (s : State) (p j : Port) (x : Level) :
    (s.setIntLevel p x).intLevel j = if p = j then x else s.intLevel j := tget_tset _ _ _ _

@[simp] theorem State.port_setPort_self (s : State) (p : Port) (x : PortIf) :
    (s.setPort p x).port p = x := tget_tset_self _ _ _

theorem State.port_setPort (s : State) (p j : Port) (x : PortIf) :
    (s.setPort p x).port j = if p = j then x else s.port j := tget_tset _ _ _ _

@[simp] theorem State.view_setView_self (s : State) (p : Port) (c : Chan) (x : View) :
    (s.setView p c x).view p c = x := by simp [State.view, State.setView]

theorem State.view_setView (s : State) (p q : Port) (c d : Chan) (x : View) :
    (s.setView p c x).view q d = if p = q ∧ c = d then x else s.view q d := by
  by_cases hp : p = q
  · subst hp
    by_cases hc : c = d
    · subst hc; simp
    · simp [State.view, State.setView, hc, tget_tset_of_ne]
  · simp [State.view, State.setView, hp, tget_tset_of_ne]

end Sys2Proof.Machine
end

