-- ==== Sys2Proof/Laws/Ops.lean ====
section
/-! SUPPORT. What each shared operation can do, once: the fields it leaves alone (`…_only`) and what it makes of
the ones it writes. -/

namespace Sys2Proof.Machine

open Sys2Proof

/-! ### The frame relation -/

namespace SameExcept

theorem refl (fs : List Field) (s : State) : SameExcept fs s s := by
  intro f _
  cases f <;> rfl

theorem trans {fs : List Field} {s t u : State} (h : SameExcept fs s t) (k : SameExcept fs t u) :
    SameExcept fs s u := by
  intro f hf
  have a := h f hf
  have b := k f hf
  cases f <;> exact Eq.trans b a

theorem mono {fs gs : List Field} {s t : State} (h : SameExcept fs s t) (sub : ∀ f, f ∈ fs → f ∈ gs) :
    SameExcept gs s t := fun f hf => h f (fun m => hf (sub f m))

/-- Two effects one after the other. -/
theorem andThen {fs gs hs : List Field} {s t u : State} (h : SameExcept fs s t) (k : SameExcept gs t u)
    (sub : ∀ f, f ∈ fs ++ gs → f ∈ hs) : SameExcept hs s u :=
  (h.mono fun f m => sub f (List.mem_append_left _ m)).trans
    (k.mono fun f m => sub f (List.mem_append_right _ m))

/-- An effect after a known one. -/
theorem comp {fs : List Field} {s t : State} {F : State → State} (h : SameExcept fs s t)
    (k : ∀ u, SameExcept fs u (F u)) : SameExcept fs s (F t) := h.trans (k t)

/-- One of two effects. -/
theorem ite {fs : List Field} {s t u : State} {c : Prop} [Decidable c] (h : SameExcept fs s t)
    (k : SameExcept fs s u) : SameExcept fs s (if c then t else u) := by
  by_cases hc : c
  · rwa [if_pos hc]
  · rwa [if_neg hc]

end SameExcept

theorem SameExcept.forPorts {fs : List Field} {f : Port → State → State}
    (h : ∀ p s, SameExcept fs s (f p s)) (s : State) : SameExcept fs s (Machine.forPorts f s) :=
  (((h 0 s).trans (h 1 _)).trans (h 2 _)).trans (h 3 _)

theorem SameExcept.foldl {α : Type} {fs : List Field} {f : α → State → State}
    (h : ∀ i s, SameExcept fs s (f i s)) (l : List α) (s : State) :
    SameExcept fs s (l.foldl (fun s i => f i s) s) := by
  induction l generalizing s with
  | nil => exact SameExcept.refl fs s
  | cons i l ih => exact (h i s).trans (ih (f i s))

theorem SameExcept.forSlots {fs : List Field} {f : SlotIdx → State → State}
    (h : ∀ i s, SameExcept fs s (f i s)) (s : State) : SameExcept fs s (Machine.forSlots f s) :=
  SameExcept.foldl h _ s

theorem SameExcept.forResources {fs : List Field} {f : Resource → State → State}
    (h : ∀ r s, SameExcept fs s (f r s)) (s : State) : SameExcept fs s (Machine.forResources f s) :=
  SameExcept.foldl h _ s

theorem SameExcept.forChans {fs : List Field} {f : Chan → State → State}
    (h : ∀ c s, SameExcept fs s (f c s)) (s : State) : SameExcept fs s (Machine.forChans f s) :=
  SameExcept.foldl h _ s

/-! ### Single updates -/

theorem setChanLines_only (s : State) (c : Chan) (x : ChanLines) : SameExcept [.lines] s (s.setChanLines c x) := by
  intro g hg
  cases g <;> first | rfl | exact absurd (by decide) hg

theorem setCap_only (s : State) (n : CapIdx) (x : CapConditioner) : SameExcept [.caps] s (s.setCap n x) := by
  intro g hg
  cases g <;> first | rfl | exact absurd (by decide) hg

theorem setEngine_only (s : State) (c : Chan) (x : Engine) : SameExcept [.engines] s (s.setEngine c x) := by
  intro g hg
  cases g <;> first | rfl | exact absurd (by decide) hg

theorem setRing_only (s : State) (c : Chan) (x : Ring) : SameExcept [.rings] s (s.setRing c x) := by
  intro g hg
  cases g <;> first | rfl | exact absurd (by decide) hg

theorem setClaim_only (s : State) (r : Resource) (x : Claim) : SameExcept [.claims] s (s.setClaim r x) := by
  intro g hg
  cases g <;> first | rfl | exact absurd (by decide) hg

theorem setChanSettings_only (s : State) (c : Chan) (x : ChanSettings) : SameExcept [.settings] s (s.setChanSettings c x) := by
  intro g hg
  cases g <;> first | rfl | exact absurd (by decide) hg

theorem setWakeSet_only (s : State) (p : Port) (x : BitVec 12) : SameExcept [.wake] s (s.setWakeSet p x) := by
  intro g hg
  cases g <;> first | rfl | exact absurd (by decide) hg

theorem setSlot_only (s : State) (i : SlotIdx) (x : Slot) : SameExcept [.slots] s (s.setSlot i x) := by
  intro g hg
  cases g <;> first | rfl | exact absurd (by decide) hg

theorem setHeldCount_only (s : State) (p : Port) (x : Nat) : SameExcept [.held] s (s.setHeldCount p x) := by
  intro g hg
  cases g <;> first | rfl | exact absurd (by decide) hg

theorem setQueue_only (s : State) (p : Port) (x : Queue) : SameExcept [.queues] s (s.setQueue p x) := by
  intro g hg
  cases g <;> first | rfl | exact absurd (by decide) hg

theorem setIntLevel_only (s : State) (p : Port) (x : Level) : SameExcept [.intLine] s (s.setIntLevel p x) := by
  intro g hg
  cases g <;> first | rfl | exact absurd (by decide) hg

theorem setPort_only (s : State) (p : Port) (x : PortIf) : SameExcept [.ports] s (s.setPort p x) := by
  intro g hg
  cases g <;> first | rfl | exact absurd (by decide) hg

theorem setView_only (s : State) (p : Port) (c : Chan) (x : View) : SameExcept [.views] s (s.setView p c x) := by
  intro g hg
  cases g <;> first | rfl | exact absurd (by decide) hg

theorem setDevice_only (s : State) (x : DeviceSettings) : SameExcept [.device] s (s.setDevice x) := by
  intro g hg
  cases g <;> first | rfl | exact absurd (by decide) hg

theorem nextFree_only (s : State) : SameExcept [.freeCount] s s.nextFree := by
  intro g hg
  cases g <;> first | rfl | exact absurd (by decide) hg

/-! ### Notices and views: only `queues` and `intLine`, and `views` where a view counts -/

theorem evalLine_only (p : Port) (s : State) : SameExcept [.intLine] s (evalLine p s) := setIntLevel_only _ _ _

theorem handNotice_only (p : Port) (n : Notice) (s : State) :
    SameExcept [.queues, .intLine] s (handNotice p n s) := by
  unfold handNotice
  dsimp only
  split
  · exact (setQueue_only _ _ _).andThen (evalLine_only _ _) (by decide)
  · exact (setQueue_only _ _ _).mono (by decide)

theorem deliver_only (p : Port) (c : Chan) (k : NoticeKind) (value aux : Word) (s : State) :
    SameExcept [.queues, .intLine] s (deliver p c k value aux s) := by
  unfold deliver
  split
  · exact handNotice_only _ _ _
  · exact SameExcept.refl _ _

theorem countPrimary_only (c : Chan) (p : Port) (s : State) :
    SameExcept [.views, .queues, .intLine] s (countPrimary c p s) := by
  unfold countPrimary
  dsimp only
  split
  · exact (setView_only _ _ _ _).mono (by decide)
  · split
    · exact (setView_only _ _ _ _).andThen (deliver_only _ _ _ _ _ _) (by decide)
    · exact (setView_only _ _ _ _).mono (by decide)

theorem primaryEvent_only (c : Chan) (s : State) :
    SameExcept [.views, .queues, .intLine] s (primaryEvent c s) :=
  SameExcept.forPorts (fun p s => countPrimary_only c p s) s

theorem countFault_only (c : Chan) (p : Port) (s : State) :
    SameExcept [.views, .queues, .intLine] s (countFault c p s) := by
  unfold countFault
  dsimp only
  split
  · exact (setView_only _ _ _ _).mono (by decide)
  · split
    · exact (setView_only _ _ _ _).andThen (deliver_only _ _ _ _ _ _) (by decide)
    · exact (setView_only _ _ _ _).mono (by decide)

theorem faultEvent_only (c : Chan) (s : State) :
    SameExcept [.engines, .views, .queues, .intLine] s (faultEvent c s) :=
  (setEngine_only _ _ _).andThen (SameExcept.forPorts (fun p s => countFault_only c p s) _) (by decide)

theorem windowEval_only (c : Chan) (p : Port) (s : State) :
    SameExcept [.views, .queues, .intLine] s (windowEval c p s) := by
  unfold windowEval
  dsimp only
  split
  · split
    · exact SameExcept.refl _ _
    · exact (setView_only _ _ _ _).andThen (deliver_only _ _ _ _ _ _) (by decide)
  · exact SameExcept.refl _ _

theorem positionChange_only (c : Chan) (s : State) :
    SameExcept [.views, .queues, .intLine] s (positionChange c s) :=
  SameExcept.forPorts (fun p s => windowEval_only c p s) s

theorem noticeViews_only (c : Chan) (k : NoticeKind) (value aux : Word) (s : State) :
    SameExcept [.queues, .intLine] s (noticeViews c k value aux s) :=
  SameExcept.forPorts (fun p s => deliver_only p c k value aux s) s

/-! ### Rings -/

theorem chargeEviction_only (c : Chan) (seq : Word) (p : Port) (s : State) :
    SameExcept [.views, .queues, .intLine] s (chargeEviction c seq p s) := by
  unfold chargeEviction
  dsimp only
  split
  · split
    · exact (setView_only _ _ _ _).mono (by decide)
    · exact (setView_only _ _ _ _).andThen (deliver_only _ _ _ _ _ _) (by decide)
  · exact SameExcept.refl _ _

theorem evictOldest_only (c : Chan) (s : State) :
    SameExcept [.rings, .views, .queues, .intLine] s (evictOldest c s) := by
  unfold evictOldest
  dsimp only
  split
  · exact SameExcept.refl _ _
  · split
    · exact (setRing_only _ _ _).andThen
        (SameExcept.forPorts (fun p s => chargeEviction_only c _ p s) _) (by decide)
    · exact SameExcept.refl _ _

theorem pushEntry_only (c : Chan) (kind : EntryKind) (value : Word) (overrange homing : Bool) (s : State) :
    SameExcept [.rings, .views, .queues, .intLine] s (pushEntry c kind value overrange homing s) :=
  (evictOldest_only c s).andThen (setRing_only _ _ _) (by decide)

theorem endMeasurement_only (c : Chan) (kind : EntryKind) (value : Word) (overrange : Bool) (s : State) :
    SameExcept [.rings, .views, .queues, .intLine] s (endMeasurement c kind value overrange s) :=
  (pushEntry_only c kind value overrange false s).andThen (primaryEvent_only c _) (by decide)

/-! ### The snapshot store -/

theorem captureSlot_only (before : Option (Chan × Engine)) (i : SlotIdx) (s : State) :
    SameExcept [.slots, .queues, .intLine] s (captureSlot before i s) := by
  unfold captureSlot
  dsimp only
  split
  · exact SameExcept.refl _ _
  · split
    · split
      · exact (setSlot_only _ _ _).mono (by decide)
      · exact (setSlot_only _ _ _).andThen (handNotice_only _ _ _) (by decide)
    · exact SameExcept.refl _ _

theorem captureEvent_only (cause : CaptureCause) (s : State) :
    SameExcept [.slots, .queues, .intLine] s (captureEvent cause s) := by
  unfold captureEvent
  refine SameExcept.forSlots (fun i s => ?_) s
  split
  · exact captureSlot_only _ _ _
  · exact SameExcept.refl _ _

theorem expireSlot_only (reason : ExpiryReason) (aux : Word) (i : SlotIdx) (s : State) :
    SameExcept [.slots, .queues, .intLine] s (expireSlot reason aux i s) := by
  unfold expireSlot
  dsimp only
  split
  · exact SameExcept.refl _ _
  · exact (setSlot_only _ _ _).andThen (handNotice_only _ _ _) (by decide)

theorem loseIndexSource_only (c : Chan) (aux : Word) (s : State) :
    SameExcept [.slots, .queues, .intLine] s (loseIndexSource c aux s) := by
  unfold loseIndexSource
  refine SameExcept.forSlots (fun i s => ?_) s
  split
  · exact expireSlot_only _ _ _ _
  · exact SameExcept.refl _ _

theorem markStale_only (c : Chan) (i : SlotIdx) (s : State) : SameExcept [.slots] s (markStale c i s) := by
  unfold markStale
  dsimp only
  split
  · exact SameExcept.refl _ _
  · split
    · split
      · exact setSlot_only _ _ _
      · exact SameExcept.refl _ _
    · exact SameExcept.refl _ _

theorem freeSlot_only (i : SlotIdx) (s : State) : SameExcept [.slots, .held] s (freeSlot i s) := by
  unfold freeSlot
  dsimp only
  split
  · exact SameExcept.refl _ _
  · exact (setSlot_only _ _ _).andThen (setHeldCount_only _ _ _) (by decide)

theorem allocate_only (i : SlotIdx) (sn : Snapshot) (s : State) :
    SameExcept [.slots, .held] s (allocate i sn s) :=
  (setSlot_only _ _ _).andThen (setHeldCount_only _ _ _) (by decide)

theorem armSnapshot_only (p : Port) (cs : List Chan) (src : SnapSource) (limit : Half) (i : SlotIdx)
    (s : State) : SameExcept [.slots, .held, .queues, .intLine] s (armSnapshot p cs src limit i s) := by
  refine SameExcept.comp (F := fun u => ite _ (captureSlot none i u) u)
    ((allocate_only i _ s).mono (by decide)) (fun u => ?_)
  exact SameExcept.ite ((captureSlot_only _ _ _).mono (by decide)) (SameExcept.refl _ _)

/-! ### The claim table -/

theorem pass_only (r : Resource) (cause : Word) (former : Port) (s : State) :
    SameExcept [.claims, .queues, .intLine] s (pass r cause former s) := by
  unfold pass
  dsimp only
  split
  · exact (setClaim_only _ _ _).mono (by decide)
  · exact (setClaim_only _ _ _).andThen (handNotice_only _ _ _) (by decide)

theorem expireLease_only (r : Resource) (s : State) :
    SameExcept [.claims, .queues, .intLine] s (expireLease r s) := by
  unfold expireLease
  dsimp only
  split
  · exact SameExcept.refl _ _
  · exact ((setClaim_only _ _ _).andThen (handNotice_only _ _ _) (hs := [.claims, .queues, .intLine])
      (by decide)).trans (pass_only _ _ _ _)

theorem restartLease_only (r : Resource) (s : State) : SameExcept [.claims] s (restartLease r s) := by
  unfold restartLease
  split
  · exact SameExcept.refl _ _
  · exact setClaim_only _ _ _

theorem renew_only (p : Port) (r : Resource) (s : State) :
    SameExcept [.claims, .freeCount] s (renew p r s) := by
  unfold renew
  dsimp only
  split
  · split
    · split
      · exact (nextFree_only s).andThen (restartLease_only r _) (by decide)
      · exact (nextFree_only s).mono (by decide)
    · exact (restartLease_only r s).mono (by decide)
  · exact SameExcept.refl _ _

theorem activity_only (p : Port) (s : State) :
    SameExcept [.claims, .freeCount] s (activity p s) :=
  SameExcept.forResources (fun r s => renew_only p r s) s

/-! ### Channel engines -/

theorem clearReferenced_only (c : Chan) (cause : Word) (s : State) :
    SameExcept [.engines, .queues, .intLine] s (clearReferenced c cause s) := by
  unfold clearReferenced
  dsimp only
  split
  · exact (setEngine_only _ _ _).andThen (noticeViews_only _ _ _ _ _) (by decide)
  · exact SameExcept.refl _ _

theorem countStep_only (c : Chan) (step : Word) (s : State) :
    SameExcept [.engines, .views, .queues, .intLine] s (countStep c step s) :=
  ((setEngine_only _ _ _).andThen (primaryEvent_only c _)
    (hs := [.engines, .views, .queues, .intLine]) (by decide)).andThen (positionChange_only c _) (by decide)

theorem takeDecoderState_only (c : Chan) (s : State) : SameExcept [.engines] s (takeDecoderState c s) :=
  setEngine_only _ _ _

theorem phaseError_only (c : Chan) (s : State) :
    SameExcept [.engines, .views, .queues, .intLine] s (phaseError c s) :=
  ((faultEvent_only c s).andThen (takeDecoderState_only c _)
    (hs := [.engines, .views, .queues, .intLine]) (by decide)).andThen (clearReferenced_only c _ _) (by decide)

theorem legalTransition_only (c : Chan) (s : State) :
    SameExcept [.engines, .views, .queues, .intLine] s (legalTransition c s) := by
  unfold legalTransition
  dsimp only
  split
  · split
    · exact (takeDecoderState_only c s).andThen (countStep_only c _ _) (by decide)
    · exact (takeDecoderState_only c s).mono (by decide)
  · exact (takeDecoderState_only c s).mono (by decide)

theorem homingLoad_only (c : Chan) (s : State) :
    SameExcept [.engines, .views, .queues, .intLine] s (homingLoad c s) :=
  ((setEngine_only _ _ _).andThen (noticeViews_only _ _ _ _ _)
    (hs := [.engines, .views, .queues, .intLine]) (by decide)).andThen (positionChange_only c _) (by decide)

theorem qualifiedIndex_only (c : Chan) (s : State) :
    SameExcept [.engines, .rings, .views, .slots, .queues, .intLine] s (qualifiedIndex c s) := by
  unfold qualifiedIndex
  dsimp only
  split
  · exact ((pushEntry_only c _ _ _ _ s).andThen (homingLoad_only c _)
      (hs := [.engines, .rings, .views, .slots, .queues, .intLine]) (by decide)).andThen
      (captureEvent_only _ _) (by decide)
  · exact (pushEntry_only c _ _ _ _ s).andThen (captureEvent_only _ _) (by decide)

theorem evalIndex_only (c : Chan) (s : State) :
    SameExcept [.engines, .rings, .views, .slots, .queues, .intLine] s (evalIndex c s) := by
  unfold evalIndex
  dsimp only
  split
  · exact (setEngine_only _ _ _).andThen (qualifiedIndex_only c _) (by decide)
  · exact (setEngine_only _ _ _).mono (by decide)

theorem glitchFaults_only (c : Chan) (a b z : Bool) (s : State) :
    SameExcept [.engines, .views, .queues, .intLine] s (glitchFaults c a b z s) := by
  have one : ∀ (x : Bool) (s : State),
      SameExcept [.engines, .views, .queues, .intLine] s (if x then faultEvent c s else s) := by
    exact fun _ s => SameExcept.ite (faultEvent_only c s) (SameExcept.refl _ _)
  exact ((one a s).comp (F := fun u => if b then faultEvent c u else u) (one b)).comp
    (F := fun u => if z then faultEvent c u else u) (one z)

theorem reportQuad_only (c : Chan) (r : Report) (s : State) :
    SameExcept [.engines, .rings, .views, .slots, .queues, .intLine] s (reportQuad c r s) := by
  have decode : ∀ s, SameExcept [.engines, .rings, .views, .slots, .queues, .intLine] s
      (if (r.edgeA && r.edgeB) = true then phaseError c s
        else if (r.edgeA || r.edgeB) = true then legalTransition c s else s) := by
    intro s
    split
    · exact (phaseError_only c s).mono (by decide)
    · split
      · exact (legalTransition_only c s).mono (by decide)
      · exact SameExcept.refl _ _
  have eval : ∀ s, SameExcept [.engines, .rings, .views, .slots, .queues, .intLine] s
      (if (r.edgeA || r.edgeB || r.edgeZ) = true then evalIndex c s else s) := by
    intro s
    split
    · exact evalIndex_only c s
    · exact SameExcept.refl _ _
  have g := (glitchFaults_only c r.glitchA r.glitchB
    (r.glitchZ && (s.chanSettings c).indexQuadrant.isSome) s).mono
    (gs := [.engines, .rings, .views, .slots, .queues, .intLine]) (by decide)
  exact (g.comp (F := fun u =>
      if (r.edgeA && r.edgeB) = true then phaseError c u
      else if (r.edgeA || r.edgeB) = true then legalTransition c u else u) decode).comp
    (F := fun u => if (r.edgeA || r.edgeB || r.edgeZ) = true then evalIndex c u else u) eval

theorem countEdge_only (c : Chan) (s : State) :
    SameExcept [.engines, .views, .queues, .intLine] s (countEdge c s) :=
  (setEngine_only _ _ _).andThen (primaryEvent_only c _) (by decide)

theorem setModeState_only (c : Chan) (m : ModeState) (s : State) :
    SameExcept [.engines] s (setModeState c m s) := setEngine_only _ _ _

theorem reportTally_only (c : Chan) (r : Report) (s : State) :
    SameExcept [.engines, .views, .queues, .intLine] s (reportTally c r s) := by
  have gate : ∀ u, SameExcept [.engines, .views, .queues, .intLine] u
      (if r.edgeB = true then
        u.setEngine c { u.engine c with
          modeState := gateState (s.chanSettings c).gate (s.chanLines c).b.filtered } else u) := by
    intro u
    split
    · exact (setEngine_only _ _ _).mono (by decide)
    · exact SameExcept.refl _ _
  have count : ∀ u, SameExcept [.engines, .views, .queues, .intLine] u
      (if (r.edgeA && tallySelects (s.chanSettings c).tallyEdge (s.chanLines c).a.filtered &&
          (u.engine c).modeState == .gateOpen) = true then countEdge c u else u) := by
    intro u
    split
    · exact countEdge_only c u
    · exact SameExcept.refl _ _
  exact ((glitchFaults_only c r.glitchA (r.glitchB && (s.chanSettings c).gate != .none) false s).comp
      (F := fun u => if r.edgeB = true then
        u.setEngine c { u.engine c with
          modeState := gateState (s.chanSettings c).gate (s.chanLines c).b.filtered } else u) gate).comp
    (F := fun u => if (r.edgeA && tallySelects (s.chanSettings c).tallyEdge (s.chanLines c).a.filtered &&
          (u.engine c).modeState == .gateOpen) = true then countEdge c u else u) count

theorem spanEdge_only (c : Chan) (s : State) :
    SameExcept [.engines, .rings, .views, .queues, .intLine] s (spanEdge c s) := by
  unfold spanEdge
  split
  · exact (endMeasurement_only c _ _ _ s).andThen (setModeState_only c _ _) (by decide)
  · exact (setModeState_only c _ s).mono (by decide)

theorem widthEdge_only (c : Chan) (s : State) :
    SameExcept [.engines, .rings, .views, .queues, .intLine] s (widthEdge c s) := by
  unfold widthEdge
  dsimp only
  split
  · split
    · exact SameExcept.refl _ _
    · exact (setModeState_only c _ s).mono (by decide)
  · split
    · exact (setModeState_only c _ s).mono (by decide)
    · exact SameExcept.refl _ _
  · split
    · exact SameExcept.refl _ _
    · exact (endMeasurement_only c _ _ _ s).andThen (setModeState_only c _ _) (by decide)
  · exact SameExcept.refl _ _

theorem reportSpan_only (c : Chan) (r : Report) (s : State) :
    SameExcept [.engines, .rings, .views, .queues, .intLine] s (reportSpan c r s) := by
  have edge : ∀ u, SameExcept [.engines, .rings, .views, .queues, .intLine] u
      (if (r.edgeA && spanSelects (u.chanSettings c).spanEdge (u.chanLines c).a.filtered) = true then spanEdge c u else u) := by
    intro u
    split
    · exact spanEdge_only c u
    · exact SameExcept.refl _ _
  exact ((glitchFaults_only c r.glitchA false false s).mono (by decide)).comp
    (F := fun u => if (r.edgeA && spanSelects (u.chanSettings c).spanEdge (u.chanLines c).a.filtered) = true
      then spanEdge c u else u) edge

theorem reportWidth_only (c : Chan) (r : Report) (s : State) :
    SameExcept [.engines, .rings, .views, .queues, .intLine] s (reportWidth c r s) := by
  have edge : ∀ u, SameExcept [.engines, .rings, .views, .queues, .intLine] u
      (if r.edgeA = true then widthEdge c u else u) := by
    intro u
    split
    · exact widthEdge_only c u
    · exact SameExcept.refl _ _
  exact ((glitchFaults_only c r.glitchA false false s).mono (by decide)).comp
    (F := fun u => if r.edgeA = true then widthEdge c u else u) edge

theorem takeReport_only (c : Chan) (r : Report) (s : State) :
    SameExcept [.engines, .rings, .views, .slots, .queues, .intLine] s (takeReport c r s) := by
  unfold takeReport
  split
  · exact SameExcept.refl _ _
  · exact reportQuad_only c r s
  · exact (reportTally_only c r s).mono (by decide)
  · exact (reportSpan_only c r s).mono (by decide)
  · exact (reportWidth_only c r s).mono (by decide)

theorem takeSample_only (u : Sample) (s : State) :
    SameExcept [.lines, .caps, .engines, .rings, .views, .slots, .queues, .intLine] s (takeSample u s) := by
  cases u with
  | chan c v =>
    simp only [takeSample]
    split
    · exact (setChanLines_only _ _ _).andThen (takeReport_only c _ _) (by decide)
    · exact (setChanLines_only _ _ _).mono (by decide)
  | cap n v =>
    simp only [takeSample]
    split
    · exact (setCap_only _ _ _).andThen (captureEvent_only _ _) (by decide)
    · exact (setCap_only _ _ _).mono (by decide)

theorem overrangeEnd_only (c : Chan) (s : State) :
    SameExcept [.engines, .rings, .views, .queues, .intLine] s (overrangeEnd c s) := by
  unfold overrangeEnd
  split
  · exact (endMeasurement_only c _ _ _ s).andThen (setModeState_only c _ _) (by decide)
  · exact (endMeasurement_only c _ _ _ s).andThen (setModeState_only c _ _) (by decide)
  · exact SameExcept.refl _ _

end Sys2Proof.Machine
end

