-- ==== Sys2Proof/Laws/Effects.lean ====
section
/-! SUPPORT. What the shared operations make of the parts they write: queues, views, rings, slots, claims. -/

namespace Sys2Proof.Machine

open Sys2Proof

/-! ### Reading through a frame -/

theorem SameExcept.view_eq {fs : List Field} {s t : State} (h : SameExcept fs s t) (hf : Field.views ∉ fs)
    (p : Port) (c : Chan) : t.view p c = s.view p c := by
  have e : t.views = s.views := h .views hf
  simp only [State.view, e]

theorem SameExcept.engine_eq {fs : List Field} {s t : State} (h : SameExcept fs s t)
    (hf : Field.engines ∉ fs) (c : Chan) : t.engine c = s.engine c := by
  have e : t.engines = s.engines := h .engines hf
  simp only [State.engine, e]

theorem SameExcept.ring_eq {fs : List Field} {s t : State} (h : SameExcept fs s t)
    (hf : Field.rings ∉ fs) (c : Chan) : t.ring c = s.ring c := by
  have e : t.rings = s.rings := h .rings hf
  simp only [State.ring, e]

theorem SameExcept.claim_eq {fs : List Field} {s t : State} (h : SameExcept fs s t)
    (hf : Field.claims ∉ fs) (r : Resource) : t.claim r = s.claim r := by
  have e : t.claims = s.claims := h .claims hf
  simp only [State.claim, e]

theorem SameExcept.queue_eq {fs : List Field} {s t : State} (h : SameExcept fs s t)
    (hf : Field.queues ∉ fs) (p : Port) : t.queue p = s.queue p := by
  have e : t.queues = s.queues := h .queues hf
  simp only [State.queue, e]

theorem SameExcept.slot_eq {fs : List Field} {s t : State} (h : SameExcept fs s t)
    (hf : Field.slots ∉ fs) (i : SlotIdx) : t.slot i = s.slot i := by
  have e : t.slots = s.slots := h .slots hf
  simp only [State.slot, e]

theorem SameExcept.port_eq {fs : List Field} {s t : State} (h : SameExcept fs s t)
    (hf : Field.ports ∉ fs) (p : Port) : t.port p = s.port p := by
  have e : t.ports = s.ports := h .ports hf
  simp only [State.port, e]

theorem SameExcept.chanSettings_eq {fs : List Field} {s t : State} (h : SameExcept fs s t)
    (hf : Field.settings ∉ fs) (c : Chan) : t.chanSettings c = s.chanSettings c := by
  have e : t.settings = s.settings := h .settings hf
  simp only [State.chanSettings, e]

theorem SameExcept.chanLines_eq {fs : List Field} {s t : State} (h : SameExcept fs s t)
    (hf : Field.lines ∉ fs) (c : Chan) : t.chanLines c = s.chanLines c := by
  have e : t.lines = s.lines := h .lines hf
  simp only [State.chanLines, e]

/-! ### Queues and interrupt lines (R164, R171) -/

theorem handNotice_queue (p q : Port) (n : Notice) (s : State) :
    (handNotice p n s).queue q = if p = q then (s.queue q).afterNotice n else s.queue q := by
  unfold handNotice Queue.afterNotice evalLine
  dsimp only
  by_cases h : p = q
  · subst h
    split <;> simp [*]
  · split <;> simp [h, State.queue_setQueue]

theorem handNotice_intLevel (p q : Port) (n : Notice) (s : State) :
    (handNotice p n s).intLevel q =
      if p = q ∧ (s.queue p).notices.length < 16 then
        lineLevel ((s.queue p).notices ++ [n]) (s.wakeSet p)
      else s.intLevel q := by
  unfold handNotice evalLine
  dsimp only
  by_cases h : p = q
  · subst h
    split <;> simp [*]
  · split <;> simp [h, State.intLevel_setIntLevel]

theorem deliver_queue (p q : Port) (c : Chan) (k : NoticeKind) (value aux : Word) (s : State) :
    (deliver p c k value aux s).queue q =
      if p = q ∧ hasKind (s.view p c).subs k = true then
        (s.queue q).afterNotice { kind := k, source := .channel c, time := s.now, value, aux }
      else s.queue q := by
  unfold deliver
  by_cases h : hasKind (s.view p c).subs k = true
  · simp [h, handNotice_queue]
  · simp [h]

/-! ### Views (R76 to R79) -/

theorem countPrimary_view (c : Chan) (p q : Port) (d : Chan) (s : State) :
    (countPrimary c p s).view q d =
      if p = q ∧ c = d then (s.view q d).afterPrimary else s.view q d := by
  unfold countPrimary View.afterPrimary
  dsimp only
  have key : ∀ (k : NoticeKind) (a b : Word) (u : State), (deliver p c k a b u).view q d = u.view q d :=
    fun k a b u => (deliver_only p c k a b u).view_eq (by decide) q d
  by_cases h : p = q ∧ c = d
  · obtain ⟨rfl, rfl⟩ := h
    split
    · simp
    · split
      · rename_i h1 h2
        simp only [key, State.view_setView_self, h2, ne_eq, not_false_eq_true, and_self, if_true, decide_true,
          Bool.or_true]
      · rename_i h1 h2
        cases hb : (s.view p c).eventAbove <;> simp_all
  · split
    · simp [State.view_setView, h]
    · split <;> simp [key, State.view_setView, h]

theorem countFault_view (c : Chan) (p q : Port) (d : Chan) (s : State) :
    (countFault c p s).view q d =
      if p = q ∧ c = d then (s.view q d).afterFault else s.view q d := by
  unfold countFault View.afterFault
  dsimp only
  have key : ∀ (k : NoticeKind) (a b : Word) (u : State), (deliver p c k a b u).view q d = u.view q d :=
    fun k a b u => (deliver_only p c k a b u).view_eq (by decide) q d
  by_cases h : p = q ∧ c = d
  · obtain ⟨rfl, rfl⟩ := h
    split
    · simp
    · split
      · rename_i h1 h2
        simp only [key, State.view_setView_self, h2, ne_eq, not_false_eq_true, and_self, if_true, decide_true,
          Bool.or_true]
      · rename_i h1 h2
        cases hb : (s.view p c).faultAbove <;> simp_all
  · split
    · simp [State.view_setView, h]
    · split <;> simp [key, State.view_setView, h]

/-- A primary event reaches the four views of its channel and no other view (R76). -/
theorem primaryEvent_view (c : Chan) (q : Port) (d : Chan) (s : State) :
    (primaryEvent c s).view q d = if c = d then (s.view q d).afterPrimary else s.view q d := by
  unfold primaryEvent forPorts
  simp only [countPrimary_view]
  by_cases h : c = d
  · fin_cases q <;> simp [h]
  · simp [h]

/-- A fault event adds to the tally of its channel and reaches its four views (R13, R77). -/
theorem faultEvent_engine (c d : Chan) (s : State) :
    (faultEvent c s).engine d =
      if c = d then { s.engine d with faultTally := satInc (s.engine d).faultTally } else s.engine d := by
  have key := (SameExcept.forPorts (fun p s => countFault_only c p s)
    (s.setEngine c { s.engine c with faultTally := satInc (s.engine c).faultTally })).engine_eq (by decide) d
  unfold faultEvent
  dsimp only
  rw [key, State.engine_setEngine]
  by_cases h : c = d
  · subst h; simp
  · simp [h]

theorem faultEvent_view (c : Chan) (q : Port) (d : Chan) (s : State) :
    (faultEvent c s).view q d = if c = d then (s.view q d).afterFault else s.view q d := by
  unfold faultEvent forPorts
  simp only [countFault_view]
  by_cases h : c = d
  · fin_cases q <;> simp [h]
  · simp [h]

/-! ### Rings (R64) -/

theorem evictOldest_ring (c d : Chan) (s : State) :
    (evictOldest c s).ring d =
      if c = d ∧ 16 ≤ (s.ring d).entries.length then
        { s.ring d with entries := (s.ring d).entries.drop 1 }
      else s.ring d := by
  unfold evictOldest
  dsimp only
  have key : ∀ (seq : Word) (u : State), (forPorts (chargeEviction c seq) u).ring d = u.ring d :=
    fun seq u => (SameExcept.forPorts (fun p s => chargeEviction_only c seq p s) u).ring_eq (by decide) d
  by_cases h : c = d
  · subst h
    split
    · rename_i he; simp [he]
    · rename_i e es he
      by_cases hl : 16 ≤ (s.ring c).entries.length
      · simp only [hl, and_self, if_true, key, State.ring_setRing_self]
        simp [he]
      · simp [hl]
  · split
    · simp [h]
    · split <;> simp [key, h, State.ring_setRing]

/-- A push acts on the ring of its channel alone (R64). -/
theorem pushEntry_ring (c d : Chan) (kind : EntryKind) (value : Word) (overrange homing : Bool) (s : State) :
    (pushEntry c kind value overrange homing s).ring d =
      if c = d then (s.ring d).afterPush kind value s.now overrange homing else s.ring d := by
  have now : (evictOldest c s).now = s.now := evictOldest_only c s .now (by decide)
  unfold pushEntry Ring.afterPush
  dsimp only
  rw [State.ring_setRing]
  by_cases h : c = d
  · subst h
    by_cases hl : 16 ≤ (s.ring c).entries.length <;> simp [evictOldest_ring, hl, now]
  · simp [h, evictOldest_ring]

/-! ### Claims (R102, R104) -/

theorem pass_claim (r q : Resource) (cause : Word) (former : Port) (s : State) :
    (pass r cause former s).claim q =
      if r = q then
        match (s.claim r).waiters with
        | [] => { s.claim r with holder := none, leaseDue := none }
        | w :: ws => { holder := some w, waiters := ws, leaseDue := s.newLease }
      else s.claim q := by
  unfold pass
  dsimp only
  have key : ∀ (w : Port) (n : Notice) (u : State), (handNotice w n u).claim q = u.claim q :=
    fun w n u => (handNotice_only w n u).claim_eq (by decide) q
  split <;> rename_i hw <;> simp [key, State.claim_setClaim, hw]

/-- Activity of a port that holds nothing changes nothing (R104). -/
theorem activity_of_no_holdings (p : Port) (s : State) (h : ∀ r, (s.claim r).holder ≠ some p) :
    activity p s = s := by
  have one : ∀ r, renew p r s = s := fun r => by simp [renew, h r]
  have all : ∀ l : List Resource, l.foldl (fun s r => renew p r s) s = s := by
    intro l
    induction l with
    | nil => rfl
    | cons r l ih => rw [List.foldl_cons, one r, ih]
  exact all _

/-! ### Slots (R153) -/

theorem freeSlot_slot (i j : SlotIdx) (s : State) :
    (freeSlot i s).slot j = if i = j then { s.slot j with body := none } else s.slot j := by
  unfold freeSlot
  dsimp only
  by_cases h : i = j
  · subst h
    split
    · rename_i hb
      cases hs : s.slot i
      simp_all
    · simp
  · split <;> simp [h, State.slot_setSlot]

end Sys2Proof.Machine
end

