-- ==== Sys2Proof/Laws/Accounts.lean ====
section
/-! SUPPORT. What the events of a channel make of a port's account of it: its view with its notice queue. -/

namespace Sys2Proof.Machine

open Sys2Proof

/-! ### One port -/

theorem account_setView (s : State) (p q : Port) (c : Chan) (v : View) :
    (s.setView p c v).account q c = if p = q then { s.account q c with view := v } else s.account q c := by
  by_cases h : p = q
  · subst h; simp [State.account]
  · simp [State.account, State.view_setView, h]

theorem SameExcept.account_eq {fs : List Field} {s t : State} (h : SameExcept fs s t)
    (hv : Field.views ∉ fs) (hq : Field.queues ∉ fs) (p : Port) (c : Chan) : t.account p c = s.account p c := by
  simp only [State.account, h.view_eq hv, h.queue_eq hq]

theorem deliver_account (p q : Port) (c : Chan) (k : NoticeKind) (value aux : Word) (s : State) :
    (deliver p c k value aux s).account q c =
      if p = q then Account.news c s.now k value aux (s.account q c) else s.account q c := by
  have view : (deliver p c k value aux s).view q c = s.view q c :=
    (deliver_only p c k value aux s).view_eq (by decide) q c
  by_cases h : p = q
  · subst h
    by_cases on : hasKind (s.view p c).subs k = true <;>
      simp [State.account, Account.news, Queue.told, view, deliver_queue, on]
  · simp [State.account, view, deliver_queue, h]

theorem countPrimary_account (c : Chan) (p q : Port) (s : State) :
    (countPrimary c p s).account q c =
      if p = q then Account.primary c s.now (s.account q c) else s.account q c := by
  unfold countPrimary
  dsimp only
  by_cases h : p = q
  · subst h
    have view : (s.account p c).view = s.view p c := rfl
    rw [if_pos rfl]
    unfold Account.primary
    by_cases full : (s.view p c).eventDelta = BitVec.allOnes 32
    · rw [if_pos full, account_setView, if_pos rfl]
      simp only [View.afterPrimary, view, if_pos full, Bool.and_not_self, Bool.false_eq_true, if_false]
    · rw [if_neg full]
      simp only [View.afterPrimary, view, if_neg full]
      split
      · rename_i crossed
        obtain ⟨on, clear, le, lt⟩ := crossed
        rw [deliver_account, if_pos rfl, account_setView, if_pos rfl]
        simp only [clear, decide_eq_true (And.intro on (And.intro le lt)), Bool.or_true, Bool.not_false,
          Bool.and_self, if_true, State.setView_now]
      · rename_i uncrossed
        rw [account_setView, if_pos rfl]
        cases clear : (s.view p c).eventAbove
        · have no : ¬ ((s.view p c).eventThreshold ≠ 0 ∧ (s.view p c).eventDelta ≤ (s.view p c).eventThreshold ∧
              (s.view p c).eventThreshold < (s.view p c).eventDelta + 1) :=
            fun ⟨on, le, lt⟩ => uncrossed ⟨on, clear, le, lt⟩
          simp only [decide_eq_false no, Bool.or_false, Bool.and_not_self, Bool.false_eq_true, if_false]
        · simp
  · split
    · simp [account_setView, h]
    · split <;> simp [deliver_account, account_setView, h]

theorem countFault_account (c : Chan) (p q : Port) (s : State) :
    (countFault c p s).account q c =
      if p = q then Account.fault c s.now (s.account q c) else s.account q c := by
  unfold countFault
  dsimp only
  by_cases h : p = q
  · subst h
    have view : (s.account p c).view = s.view p c := rfl
    rw [if_pos rfl]
    unfold Account.fault
    by_cases full : (s.view p c).faultDelta = BitVec.allOnes 16
    · rw [if_pos full, account_setView, if_pos rfl]
      simp only [View.afterFault, view, if_pos full, Bool.and_not_self, Bool.false_eq_true, if_false]
    · rw [if_neg full]
      simp only [View.afterFault, view, if_neg full]
      split
      · rename_i crossed
        obtain ⟨on, clear, le, lt⟩ := crossed
        rw [deliver_account, if_pos rfl, account_setView, if_pos rfl]
        simp only [clear, decide_eq_true (And.intro on (And.intro le lt)), Bool.or_true, Bool.not_false,
          Bool.and_self, if_true, State.setView_now]
      · rename_i uncrossed
        rw [account_setView, if_pos rfl]
        cases clear : (s.view p c).faultAbove
        · have no : ¬ ((s.view p c).faultThreshold ≠ 0 ∧ (s.view p c).faultDelta ≤ (s.view p c).faultThreshold ∧
              (s.view p c).faultThreshold < (s.view p c).faultDelta + 1) :=
            fun ⟨on, le, lt⟩ => uncrossed ⟨on, clear, le, lt⟩
          simp only [decide_eq_false no, Bool.or_false, Bool.and_not_self, Bool.false_eq_true, if_false]
        · simp
  · split
    · simp [account_setView, h]
    · split <;> simp [deliver_account, account_setView, h]

theorem windowEval_account (c : Chan) (p q : Port) (s : State) :
    (windowEval c p s).account q c =
      if p = q then Account.position c s.now (s.engine c).position (s.account q c) else s.account q c := by
  unfold windowEval
  dsimp only
  by_cases h : p = q
  · subst h
    have view : (s.account p c).view = s.view p c := rfl
    rw [if_pos rfl]
    simp only [Account.position, view]
    by_cases on : (s.view p c).windowOn = true
    · by_cases kept : some (windowStateOf (s.view p c).low (s.view p c).high (s.engine c).position) =
          (s.view p c).windowState
      · simp [on, kept]
      · rw [if_pos on, if_neg kept, if_pos ⟨on, fun e => kept e.symm⟩, deliver_account, if_pos rfl,
          account_setView, if_pos rfl]
        simp
    · simp [on]
  · split
    · split <;> simp [deliver_account, account_setView, h]
    · simp

theorem chargeEviction_account (c : Chan) (oldest : RingEntry) (r : Ring) (p q : Port) (s : State)
    (full : 16 ≤ r.entries.length) (first : r.entries.head? = some oldest) :
    (chargeEviction c oldest.seq p s).account q c =
      if p = q then Account.push c s.now r (s.account q c) else s.account q c := by
  unfold chargeEviction
  dsimp only
  by_cases h : p = q
  · subst h
    have view : (s.account p c).view = s.view p c := rfl
    rw [if_pos rfl]
    simp only [Account.push, first, view, full, true_and]
    by_cases on : (s.view p c).cursor = oldest.seq
    · rw [if_pos on, if_pos on]
      split
      · rw [account_setView, if_pos rfl]
      · rw [deliver_account, if_pos rfl, account_setView, if_pos rfl]
        simp
    · rw [if_neg on, if_neg on]
  · split
    · split <;> simp [deliver_account, account_setView, h]
    · simp

/-! ### All four ports (R76, R77, R88, R90) -/

/-- An action on each port that makes of each account what it makes of the account of its own port, and that
leaves what it reads beside the account. -/
theorem forPorts_account {c : Chan} {f : Port → State → State} {F : State → Account → Account}
    (one : ∀ p q s, (f p s).account q c = if p = q then F s (s.account q c) else s.account q c)
    (same : ∀ p s, F (f p s) = F s) (q : Port) (s : State) :
    (forPorts f s).account q c = F s (s.account q c) := by
  unfold forPorts
  simp only [one, same]
  fin_cases q <;> simp

theorem primaryEvent_account (c : Chan) (q : Port) (s : State) :
    (primaryEvent c s).account q c = Account.primary c s.now (s.account q c) :=
  forPorts_account (F := fun s => Account.primary c s.now) (countPrimary_account c)
    (fun p s => by rw [show (countPrimary c p s).now = s.now from countPrimary_only c p s .now (by decide)]) q s

theorem faultEvent_account (c : Chan) (q : Port) (s : State) :
    (faultEvent c s).account q c = Account.fault c s.now (s.account q c) := by
  unfold faultEvent
  dsimp only
  rw [forPorts_account (F := fun s => Account.fault c s.now) (countFault_account c)
    (fun p s => by rw [show (countFault c p s).now = s.now from countFault_only c p s .now (by decide)])]
  rfl

theorem positionChange_account (c : Chan) (q : Port) (s : State) :
    (positionChange c s).account q c = Account.position c s.now (s.engine c).position (s.account q c) :=
  forPorts_account (F := fun s => Account.position c s.now (s.engine c).position) (windowEval_account c)
    (fun p s => by
      rw [show (windowEval c p s).now = s.now from windowEval_only c p s .now (by decide),
        (windowEval_only c p s).engine_eq (by decide)]) q s

theorem noticeViews_account (c : Chan) (k : NoticeKind) (value aux : Word) (q : Port) (s : State) :
    (noticeViews c k value aux s).account q c = Account.news c s.now k value aux (s.account q c) :=
  forPorts_account (F := fun s => Account.news c s.now k value aux)
    (fun p q s => deliver_account p q c k value aux s)
    (fun p s => by
      rw [show (deliver p c k value aux s).now = s.now from deliver_only p c k value aux s .now (by decide)]) q s

/-- A push charges the views on the entry it evicts, and touches no other account (R64 to R66). -/
theorem pushEntry_account (c : Chan) (kind : EntryKind) (value : Word) (overrange homing : Bool) (q : Port)
    (s : State) :
    (pushEntry c kind value overrange homing s).account q c = Account.push c s.now (s.ring c) (s.account q c) := by
  have ring : ∀ (x : Ring) (u : State), (u.setRing c x).account q c = u.account q c :=
    fun x u => (setRing_only u c x).account_eq (by decide) (by decide) q c
  unfold pushEntry evictOldest
  dsimp only
  rw [ring]
  cases first : (s.ring c).entries with
  | nil => simp [Account.push, first]
  | cons oldest later =>
    dsimp only
    rw [← first]
    split
    · rename_i full
      rw [forPorts_account (F := fun u => Account.push c u.now (s.ring c))
        (fun p q u => chargeEviction_account c oldest (s.ring c) p q u full (by simp [first]))
        (fun p u => by
          rw [show (chargeEviction c oldest.seq p u).now = u.now from
            chargeEviction_only c oldest.seq p u .now (by decide)]), ring]
      rfl
    · rename_i room
      simp [Account.push, first] at room ⊢
      omega

end Sys2Proof.Machine
end

