-- ==== Sys2Proof/Laws/PerInstr.lean ====
section
/-! SUPPORT. What holds of every row as syntax, one lemma for each constructor of Instr. -/

namespace Sys2Proof.Laws

open Sys2Proof

/-- A row that stands for the end of a frame is the row its frame decodes to. -/
def FrameRoundTrip.Statement (i : Instr) : Prop :=
  i.wellFormed = true → ∀ p bytes, frameOf i = some (p, bytes) → decodeFrame p bytes = i

theorem FrameRoundTrip.powerOn : FrameRoundTrip.Statement .powerOn := by
  intro _ q bytes h
  cases h

theorem FrameRoundTrip.powerOnIntervalEnd (resetPin : Level) (pins : PinLevels) :
    FrameRoundTrip.Statement (.powerOnIntervalEnd resetPin pins) := by
  intro _ q bytes h
  cases h

theorem FrameRoundTrip.resetPinAssert : FrameRoundTrip.Statement .resetPinAssert := by
  intro _ q bytes h
  cases h

theorem FrameRoundTrip.resetPinRelease (pins : PinLevels) :
    FrameRoundTrip.Statement (.resetPinRelease pins) := by
  intro _ q bytes h
  cases h

theorem FrameRoundTrip.lineSample (u : Sample) :
    FrameRoundTrip.Statement (.lineSample u) := by
  intro _ q bytes h
  cases h

theorem FrameRoundTrip.filteredEdge (u : Sample) :
    FrameRoundTrip.Statement (.filteredEdge u) := by
  intro _ q bytes h
  cases h

theorem FrameRoundTrip.overrangeExpiry (c : Chan) :
    FrameRoundTrip.Statement (.overrangeExpiry c) := by
  intro _ q bytes h
  cases h

theorem FrameRoundTrip.leaseExpiry (r : Resource) :
    FrameRoundTrip.Statement (.leaseExpiry r) := by
  intro _ q bytes h
  cases h

theorem FrameRoundTrip.armLimitExpiry (i : SlotIdx) :
    FrameRoundTrip.Statement (.armLimitExpiry i) := by
  intro _ q bytes h
  cases h

theorem FrameRoundTrip.timeTargetReached (t : Tick) :
    FrameRoundTrip.Statement (.timeTargetReached t) := by
  intro _ q bytes h
  cases h

theorem FrameRoundTrip.frameStart (p : Port) :
    FrameRoundTrip.Statement (.frameStart p) := by
  intro _ q bytes h
  cases h

theorem FrameRoundTrip.emptyFrame (p : Port) :
    FrameRoundTrip.Statement (.emptyFrame p) := by
  intro _ q bytes h
  cases h
  rfl

theorem FrameRoundTrip.abandonedFrameEnd (p : Port) :
    FrameRoundTrip.Statement (.abandonedFrameEnd p) := by
  intro _ q bytes h
  cases h

theorem FrameRoundTrip.readFrame (p : Port) (rest : List Byte) :
    FrameRoundTrip.Statement (.readFrame p rest) := by
  intro _ q bytes h
  cases h
  rfl

theorem FrameRoundTrip.unknownCommand (p : Port) (code : Byte) (rest : List Byte) :
    FrameRoundTrip.Statement (.unknownCommand p code rest) := by
  intro wf q bytes h
  simp only [frameOf, Option.some.injEq, Prod.mk.injEq] at h
  obtain ⟨rfl, rfl⟩ := h
  simp only [Instr.wellFormed, isUnknownCode, Machine.isCommandCode, bne_iff_ne, ne_eq, Bool.and_eq_true,
    Bool.not_eq_true'] at wf
  obtain ⟨zero, other⟩ := wf
  have zero' : code.toNat ≠ 0 := fun e => zero (BitVec.eq_of_toNat_eq e)
  unfold decodeFrame
  dsimp only
  split <;> first | rfl | simp_all

theorem FrameRoundTrip.ping (p : Port) (rest : List Byte) :
    FrameRoundTrip.Statement (.ping p rest) := by
  intro _ q bytes h
  cases h
  rfl

theorem FrameRoundTrip.identify (p : Port) (rest : List Byte) :
    FrameRoundTrip.Statement (.identify p rest) := by
  intro _ q bytes h
  cases h
  rfl

theorem FrameRoundTrip.claim (p : Port) (rest : List Byte) :
    FrameRoundTrip.Statement (.claim p rest) := by
  intro _ q bytes h
  cases h
  rfl

theorem FrameRoundTrip.release (p : Port) (rest : List Byte) :
    FrameRoundTrip.Statement (.release p rest) := by
  intro _ q bytes h
  cases h
  rfl

theorem FrameRoundTrip.setChannel (p : Port) (rest : List Byte) :
    FrameRoundTrip.Statement (.setChannel p rest) := by
  intro _ q bytes h
  cases h
  rfl

theorem FrameRoundTrip.getChannel (p : Port) (rest : List Byte) :
    FrameRoundTrip.Statement (.getChannel p rest) := by
  intro _ q bytes h
  cases h
  rfl

theorem FrameRoundTrip.setDevice (p : Port) (rest : List Byte) :
    FrameRoundTrip.Statement (.setDevice p rest) := by
  intro _ q bytes h
  cases h
  rfl

theorem FrameRoundTrip.getDevice (p : Port) (rest : List Byte) :
    FrameRoundTrip.Statement (.getDevice p rest) := by
  intro _ q bytes h
  cases h
  rfl

theorem FrameRoundTrip.setPort (p : Port) (rest : List Byte) :
    FrameRoundTrip.Statement (.setPort p rest) := by
  intro _ q bytes h
  cases h
  rfl

theorem FrameRoundTrip.preset (p : Port) (rest : List Byte) :
    FrameRoundTrip.Statement (.preset p rest) := by
  intro _ q bytes h
  cases h
  rfl

theorem FrameRoundTrip.home (p : Port) (rest : List Byte) :
    FrameRoundTrip.Statement (.home p rest) := by
  intro _ q bytes h
  cases h
  rfl

theorem FrameRoundTrip.homeCancel (p : Port) (rest : List Byte) :
    FrameRoundTrip.Statement (.homeCancel p rest) := by
  intro _ q bytes h
  cases h
  rfl

theorem FrameRoundTrip.readChannel (p : Port) (rest : List Byte) :
    FrameRoundTrip.Statement (.readChannel p rest) := by
  intro _ q bytes h
  cases h
  rfl

theorem FrameRoundTrip.take (p : Port) (rest : List Byte) :
    FrameRoundTrip.Statement (.take p rest) := by
  intro _ q bytes h
  cases h
  rfl

theorem FrameRoundTrip.peekView (p : Port) (rest : List Byte) :
    FrameRoundTrip.Statement (.peekView p rest) := by
  intro _ q bytes h
  cases h
  rfl

theorem FrameRoundTrip.setView (p : Port) (rest : List Byte) :
    FrameRoundTrip.Statement (.setView p rest) := by
  intro _ q bytes h
  cases h
  rfl

theorem FrameRoundTrip.drain (p : Port) (rest : List Byte) :
    FrameRoundTrip.Statement (.drain p rest) := by
  intro _ q bytes h
  cases h
  rfl

theorem FrameRoundTrip.snapArm (p : Port) (rest : List Byte) :
    FrameRoundTrip.Statement (.snapArm p rest) := by
  intro _ q bytes h
  cases h
  rfl

theorem FrameRoundTrip.snapRead (p : Port) (rest : List Byte) :
    FrameRoundTrip.Statement (.snapRead p rest) := by
  intro _ q bytes h
  cases h
  rfl

theorem FrameRoundTrip.snapDiscard (p : Port) (rest : List Byte) :
    FrameRoundTrip.Statement (.snapDiscard p rest) := by
  intro _ q bytes h
  cases h
  rfl

theorem FrameRoundTrip.snapList (p : Port) (rest : List Byte) :
    FrameRoundTrip.Statement (.snapList p rest) := by
  intro _ q bytes h
  cases h
  rfl

theorem FrameRoundTrip.fetch (p : Port) (rest : List Byte) :
    FrameRoundTrip.Statement (.fetch p rest) := by
  intro _ q bytes h
  cases h
  rfl

theorem FrameRoundTrip.portReset (p : Port) (rest : List Byte) :
    FrameRoundTrip.Statement (.portReset p rest) := by
  intro _ q bytes h
  cases h
  rfl

theorem FrameRoundTrip.deviceReset (p : Port) (rest : List Byte) :
    FrameRoundTrip.Statement (.deviceReset p rest) := by
  intro _ q bytes h
  cases h
  rfl

end Sys2Proof.Laws
end

