-- ==== Sys2Proof/Laws/Ports.lean ====
section
/-! SUPPORT. The port interface: a good frame passes the three checks, and what its end does. -/

namespace Sys2Proof.Machine

open Sys2Proof

theorem byteOf_toNat {n : Nat} (h : n < 256) : (byteOf n).toNat = n := by
  simp [byteOf, Nat.mod_eq_of_lt h]

/-- Of a frame of which nothing has arrived, any bytes may yet come (R179). -/
theorem hasReceived_of_nothing {pt : PortIf} (bytes : List Byte) (whole : pt.wholeBytes = 0)
    (kept : pt.frameBytes = []) (bits : pt.bits = []) : hasReceived pt bytes = true := by
  simp [hasReceived, whole, kept, bits]

/-- What `receiveBit` can do: outside RECEIVING nothing; else the bit joins the byte in progress, or ends it. -/
theorem receiveBit_cases (v : Level) (pt : PortIf) :
    (pt.recv ≠ .receiving ∧ receiveBit v pt = pt) ∨
    (pt.recv = .receiving ∧ pt.bits.length < 7 ∧ receiveBit v pt = { pt with bits := pt.bits ++ [v] }) ∨
    (pt.recv = .receiving ∧ 7 ≤ pt.bits.length ∧
      receiveBit v pt = receiveByte (byteOfBits (pt.bits ++ [v])) { pt with bits := [] }) := by
  unfold receiveBit
  cases h : pt.recv with
  | receiving =>
    by_cases hl : 7 ≤ pt.bits.length
    · exact .inr (.inr ⟨rfl, hl, by simp [hl]⟩)
    · exact .inr (.inl ⟨rfl, by omega, by simp [hl]⟩)
  | idle => exact .inl ⟨by simp, rfl⟩
  | abandoned => exact .inl ⟨by simp, rfl⟩

/-- What a clock edge can do to a port: a rising one brings a bit, a falling one moves data-out on in a frame that
counts. -/
theorem takeEdge_cases (e : ClockEdge) (pt : PortIf) :
    (pt.recv ≠ .receiving ∧ takeEdge e pt = pt) ∨
    (pt.recv = .receiving ∧ e = .fall ∧ takeEdge e pt = { pt with shifted := pt.shifted + 1 }) ∨
    (pt.recv = .receiving ∧ ∃ v, e = .rise v ∧ takeEdge e pt = receiveBit v pt) := by
  cases e with
  | rise v =>
    by_cases h : pt.recv = .receiving
    · exact .inr (.inr ⟨h, v, rfl, rfl⟩)
    · rcases receiveBit_cases v pt with ⟨-, e⟩ | ⟨r, -⟩ | ⟨r, -⟩
      · exact .inl ⟨h, e⟩
      · exact absurd r h
      · exact absurd r h
  | fall =>
    unfold takeEdge shiftOut
    cases h : pt.recv with
    | receiving => exact .inr (.inl ⟨rfl, rfl, rfl⟩)
    | idle => exact .inl ⟨by simp, rfl⟩
    | abandoned => exact .inl ⟨by simp, rfl⟩

/-- No clock edge changes the receiver state, what the frame presents, the slot or the marks. -/
theorem takeEdge_keeps (e : ClockEdge) (pt : PortIf) :
    (takeEdge e pt).recv = pt.recv ∧ (takeEdge e pt).status = pt.status ∧
      (takeEdge e pt).presented = pt.presented ∧ (takeEdge e pt).slot = pt.slot ∧
      (takeEdge e pt).collided = pt.collided ∧ (takeEdge e pt).resetSeen = pt.resetSeen ∧
      (takeEdge e pt).selSampled = pt.selSampled := by
  rcases takeEdge_cases e pt with ⟨-, h⟩ | ⟨-, -, h⟩ | ⟨-, v, -, h⟩
  · simp [h]
  · simp [h]
  · rw [h]
    rcases receiveBit_cases v pt with ⟨-, k⟩ | ⟨-, -, k⟩ | ⟨-, -, k⟩ <;> simp [k, receiveByte]

/-- A whole, undamaged frame of an accepted length passes the three checks (R186). -/
theorem checkFrame_frameRest (code tagByte : Byte) (payload fill : List Byte) (len : payload.length ≤ 24)
    (accepted : acceptsLength code payload.length = true) :
    checkFrame code (frameRest code tagByte payload fill) = .pass (tagByte.setWidth 4) payload := by
  have n : (byteOf payload.length).toNat = payload.length := byteOf_toNat (by omega)
  unfold frameRest checkFrame
  simp only [List.cons_append, n]
  have whole : ¬ (24 < payload.length ∨
      (payload ++ crc8 (code :: tagByte :: byteOf payload.length :: payload) :: fill).length
        < payload.length + 1) := by
    simp; omega
  rw [if_neg whole]
  simp [byteAt, accepted]

theorem frameEnded_only (p : Port) (bytes : List Byte) (s : State) :
    SameExcept [.ports] s (frameEnded p bytes s) := setPort_only _ _ _

theorem place_only (p : Port) (tag : BitVec 4) (r : Reply) (s : State) :
    SameExcept [.ports] s (place p tag r s) := setPort_only _ _ _

theorem collide_only (p : Port) (s : State) : SameExcept [.ports] s (collide p s) := setPort_only _ _ _

theorem answered_only (p : Port) (tagByte : Byte) (code : RespCode) (payload : List Byte) (s : State) :
    SameExcept [.ports, .claims, .freeCount] s (answered p tagByte code payload s) :=
  (place_only _ _ _ _).andThen (activity_only _ _) (by decide)

theorem frameEnded_slot_of_clears {p : Port} {bytes : List Byte} {s : State} (h : SlotClears p bytes s) :
    ((frameEnded p bytes s).port p).slot = none := by
  unfold frameEnded
  rw [State.port_setPort_self]
  rcases h with h | ⟨r, hr, hl⟩
  · simp only [endFramePort, h]
    split
    · split <;> rfl
    · rfl
  · simp [endFramePort, hr, hl]

/-- The end of a frame that R189 dispatches: the command runs on the state after steps 1 and 2, its response is
placed, then the activity is taken (R185). -/
theorem commandFrame_dispatched {p : Port} {code tagByte : Byte} {payload rest : List Byte} {s : State}
    (h : Dispatched p code tagByte payload rest s) (body : List Byte → State → State × Reply) :
    commandFrame p code rest body s =
      answered p tagByte (body payload (frameEnded p (code :: rest) s)).2.code
        (body payload (frameEnded p (code :: rest) s)).2.payload
        (body payload (frameEnded p (code :: rest) s)).1 := by
  obtain ⟨⟨run, recv, fresh, received⟩, clears, len, accepted, fill, rfl⟩ := h
  have empty := frameEnded_slot_of_clears clears
  unfold commandFrame atFrameEnd
  rw [if_pos ⟨run, fresh⟩, recv]
  simp only [received, if_true, runCommand, checkFrame_frameRest code tagByte payload fill len accepted, empty,
    Option.isSome_none, Bool.false_eq_true, if_false, answered]

end Sys2Proof.Machine
end

