-- ==== Sys2Proof/Laws/Tick.lean ====
section
/-! SUPPORT. What a step on an empty queue can do: what is owed is queued in some order, or the next tick
begins. -/

namespace Sys2Proof.Machine

open Sys2Proof

/-- A free order of a list holds the same events (log entry 3). -/
theorem freeOrder_perm (fuel : Nat) (l : List Instr) (k : Nat) : (freeOrder fuel l k).1.Perm l := by
  induction fuel generalizing l k with
  | zero => exact .refl l
  | succ fuel ih =>
    unfold freeOrder
    split
    · exact .refl l
    · split
      · rename_i x hx
        obtain ⟨hi, rfl⟩ := List.getElem?_eq_some_iff.mp hx
        exact ((ih _ _).cons _).trans (List.getElem_cons_eraseIdx_perm hi)
      · exact .refl l

theorem enqueue_only (s : State) (es : List Instr) : SameExcept [.pending, .freeCount] s (s.enqueue es) := by
  intro f hf
  cases f <;> first | rfl | exact absurd (by decide) hf

/-- The events that join the queue stand at its tail. -/
theorem enqueue_pending (s : State) (es : List Instr) :
    ∃ l, l.Perm es ∧ (s.enqueue es).pending = s.pending ++ l := ⟨_, freeOrder_perm _ _ _, rfl⟩

/-- Of every tick: RESET is sampled and the wires move on; a running device's tick also writes the timebase, the marks
of the samples and the ports, a reset's the ticks of its interval. -/
theorem advance_only (s : State) :
    SameExcept [.phase, .resetLow, .resetWire, .now, .lines, .caps, .ports, .wires] s (advance s) := by
  intro f hf
  unfold advance
  split <;> cases f <;> first | rfl | exact absurd (by decide) hf

theorem advance_running_only {s : State} (h : s.running) :
    SameExcept [.resetLow, .resetWire, .now, .lines, .caps, .ports, .wires] s (advance s) := by
  intro f hf
  unfold advance
  rw [h]
  cases f <;> first | exact h.symm | rfl | exact absurd (by decide) hf

/-- In a reset no line and no select is sampled, and the timebase is held (R2, R197). -/
theorem advance_reset_only {s : State} (h : ¬ s.running) :
    SameExcept [.phase, .resetLow, .resetWire, .wires] s (advance s) := by
  intro f hf
  unfold advance
  split
  · exact absurd ‹_› h
  · cases f <;> first | rfl | exact absurd (by decide) hf
  · cases f <;> first | rfl | exact absurd (by decide) hf

theorem advance_resetLow (s : State) :
    (advance s).resetLow = if s.resetLevel = .low then min 16 (s.resetLow + 1) else 0 := by
  unfold advance
  split <;> rfl

theorem advance_port {s : State} (h : s.running) (p : Port) :
    (advance s).port p = portAtTick ((tget s.wires p).headD []) (s.port p) := by
  unfold advance
  rw [h]
  simp [advanceRunning, sampleReset, State.port]

/-- What a running device's tick can owe. -/
theorem mem_owed {s : State} (h : s.running) (i : Instr) :
    i ∈ s.owed ↔
      (16 ≤ s.resetLow ∧ i = .resetPinAssert) ∨
      (∃ c, (s.chanLines c).sampled = false ∧
        ((s.chanLines c).a.moving = true ∨ (s.chanLines c).b.moving = true ∨ (s.chanLines c).z.moving = true) ∧
        i = s.sampleEvent (.chan c (heldLevels (s.chanLines c)))) ∨
      (∃ n, (s.cap n).sampled = false ∧ (s.cap n).line.moving = true ∧
        i = s.sampleEvent (.cap n (s.cap n).line.raw)) ∨
      (∃ c, overrangeDue (s.engine c).modeState = some s.now ∧ i = .overrangeExpiry c) ∨
      (∃ r, (s.claim r).holder.isSome = true ∧ (s.claim r).leaseDue = some s.now ∧ i = .leaseExpiry r) ∨
      (∃ j, s.armLimitDue j = some s.now ∧ i = .armLimitExpiry j) ∨
      (∃ j sn, s.armedSnap j = some sn ∧ sn.source = .time s.now) ∧ i = .timeTargetReached s.now := by
  have target : (List.finRange 24).any (fun j => (s.armedSnap j).any (fun sn => sn.source == .time s.now)) = true ↔
      ∃ j sn, s.armedSnap j = some sn ∧ sn.source = .time s.now := by simp [Option.any_eq_true]
  unfold State.owed
  rw [h]
  simp only [State.samplesOwed, State.expiriesDue, List.mem_append, List.map_append, List.map_map, List.mem_map,
    Function.comp, List.mem_filter, List.mem_finRange, true_and, Bool.and_eq_true, Bool.or_eq_true, Bool.not_eq_true', beq_iff_eq, or_assoc,
    and_assoc, List.mem_ite_nil_right, List.mem_singleton, target, eq_comm (b := i)]

/-- What a step on an empty queue can do. -/
theorem step_of_empty_queue {s : State} (h : s.pending = []) :
    (s.owed ≠ [] ∧ step s = .next (s.enqueue s.owed)) ∨ (s.owed = [] ∧ step s = .next (advance s)) := by
  unfold step tick
  rw [h]
  by_cases owed : s.owed = []
  · exact .inr ⟨owed, by simp [owed]⟩
  · exact .inl ⟨owed, by simp [owed]⟩

end Sys2Proof.Machine
end

