-- ==== Sys2Proof/Tests/Slice0.lean ====
section
/-! SUPPORT. Tests on fixed values, their expected results from the spec's own tables and examples, and one
witness for the hypotheses of each statement of Certificates/Slice0/Obligations.lean. -/

namespace Sys2Proof.Tests

set_option Elab.async false

open Sys2Proof Sys2Proof.Machine

/-! ### Helpers -/

/-- The state after a step that goes on. -/
def after (i : Instr) (s : State) : Option State :=
  match exec i s with
  | .next t => some t
  | _ => none

/-- One field of the state after a step. -/
def seen {α : Type} (f : State → α) (i : Instr) (s : State) : Option α := (after i s).map f

/-- A whole command frame without fill, as the row it decodes to. -/
def sent (p : Port) (code : Byte) (payload : List Byte) : Instr :=
  decodeFrame p (code :: frameRest code 0x05 payload [])

/-- The response in a port's slot after a step. -/
def answer (p : Port) (i : Instr) (s : State) : Option (RespCode × List Byte) :=
  ((after i s).bind (fun t => (t.port p).slot)).map (fun r => (r.code, r.payload))

/-- The state with no select sampled yet at this tick. -/
def State.unsampled (s : State) : State := { s with ports := tmap s.ports fun _ pt => { pt with selSampled := false } }

/-- The state with a frame begun on a port at an earlier tick, of which nothing has arrived. -/
def State.inFrame (s : State) (p : Port) : State := State.unsampled (startFrame p s)

/-- The state after reset with a frame begun on P0. -/
def idle : State := State.inFrame State.reset 0

/-- A channel with settings `r`, an engine `e` and lines not sampled yet at this tick, all LOW. -/
def State.withChan (s : State) (c : Chan) (r : ChanSettings) (e : Engine) : State :=
  ((s.setChanSettings c r).setEngine c e).setChanLines c
    { a := Conditioner.reset, b := Conditioner.reset, z := Conditioner.reset, sampled := false }

/-- A resource held by a port, with a lease due at a tick and waiters. -/
def State.heldBy (s : State) (r : Resource) (p : Port) (due : Tick) (waiters : List Port) : State :=
  s.setClaim r { holder := some p, waiters := waiters, leaseDue := some due }

/-- The defaults in a mode, unfiltered. -/
def inMode (m : Mode) : ChanSettings := { ChanSettings.default with mode := m, filterStep := 0 }

/-- QUAD, unfiltered, with index quadrant 00 and home value 1,000 (the example of chapter 2). -/
def quadSettings : ChanSettings :=
  { inMode .quad with indexQuadrant := some ⟨.low, .low⟩, homeValue := 1000 }

/-- A QUAD engine with AB at 00. -/
def quadEngine : Engine := { Engine.reset with modeState := .quad ⟨.low, .low⟩ }

/-- C0 in QUAD, homing armed, at position 4 (tick 5,120 of the example of chapter 2). -/
def homing : State :=
  State.withChan { State.reset with now := 5150 } 0 quadSettings
    { quadEngine with position := 4, homingArmed := true }

/-- A snapshot of C0 by P1 that waits for a source. -/
def waiting (src : SnapSource) (due : Option Tick) : Snapshot :=
  { owner := 1, channels := [0], source := src, armTime := 0, armLimit := 5, late := false,
    phase := .armed [] due }

/-! ### Well-formedness and decoding -/

/-- The one check: a term of UNKNOWN_COMMAND with a command's code is ill formed, and so is one with 0x00. -/
theorem test_illFormed_unknownCommand :
    (Instr.unknownCommand 0 0x01 []).wellFormed = false ∧ (Instr.unknownCommand 0 0x00 []).wellFormed = false := by
  decide +kernel

theorem test_wellFormed_unknownCommand : (Instr.unknownCommand 0 0x99 []).wellFormed = true := by decide +kernel

theorem test_illFormed_is_refused : exec (.unknownCommand 0 0x01 []) State.reset = .refused .illFormed := rfl

/-- No row of the table has bits (spec/opcode_table.json). -/
theorem test_decodeTableWord : decodeTableWord 8 1 = none := rfl

/-- A frame's first byte names its row (R180, R203). -/
theorem test_decodeFrame :
    [[], [0x00, 0xAA], [0x01, 3, 0, 0x7F], [0x71], [0x99]].map (decodeFrame 2) =
      [.emptyFrame 2, .readFrame 2 [0xAA], .ping 2 [3, 0, 0x7F], .deviceReset 2 [],
        .unknownCommand 2 0x99 []] := by decide +kernel

/-! ### Formats -/

/-- The CRC of PING with tag 3, step by step, and of its response (10, Checking a Frame's CRC). -/
theorem test_crc : crc8 [0x01] = 0xF4 ∧ crc8 [0x01, 0x03] = 0xCB ∧ crc8 [0x01, 0x03, 0x00] = 0x7F ∧
    crc8 [0x00, 0x03, 0x00] = 0x14 := by decide +kernel

/-- The default records (R117, R131) in the layouts of section 11.5. -/
theorem test_default_records :
    chanSettingsBytes ChanSettings.default = [0, 3, 2, 0, 0, 0, 0, 1, 4, 1, 0, 0, 0, 0] ∧
      deviceSettingsBytes DeviceSettings.default = [0x32, 6, 0, 0, 3] := by decide +kernel

/-- Status bits: RST alone after reset, RESP and a count of 16 as bits 5 and 4 (R199). -/
theorem test_statusByte : statusByte PortIf.reset 0 = 0x80 ∧
    statusByte { PortIf.reset with
      resetSeen := false, slot := some { code := .ok, tag := 0, payload := [] } } 16 = 0x30 := by decide +kernel

/-! ### Resets and frames -/

theorem test_powerOn : seen (fun t => (t.phase, t.now)) .powerOn State.reset = some (.powerOnInterval 0, 0) := by
  decide +kernel

/-- 16 LOW samples of RESET start a reset, 15 have no effect (R2). -/
theorem test_resetPinAssert_clears_holder :
    let s (n : Nat) : State := { State.heldBy State.reset 3 0 9 [1] with resetLow := n }
    seen (fun t => (t.claim 3).holder) .resetPinAssert (s 16) = some none ∧
      after .resetPinAssert (s 15) = some (s 15) := by decide +kernel

/-- RESET sampled LOW, then HIGH, on a step of an empty queue: 15 samples make 16, or 0 (R2). -/
theorem test_reset_pulse :
    [Level.low, .high].map (fun v =>
      match step { State.reset with resetLow := 15, resetWire := [v] } with
      | .next t => some (t.resetLow, t.now)
      | _ => none) = [some (16, 1), some (0, 1)] := by decide +kernel

/-- Levels at the pins: channels HIGH, CAP0 HIGH, select of P0 LOW. -/
def pins : PinLevels :=
  { chan := Vector.replicate 8 ⟨.high, .high, .high⟩, cap := #v[.high, .low], select := #v[.low, .high, .high, .high] }

/-- The filtered levels are those at the pins, and a port with select LOW is ABANDONED (R18, R197). -/
theorem test_resetPinRelease :
    seen (fun t => ((t.chanLines 5).b.filtered, (t.port 0).recv, (t.port 1).recv)) (.resetPinRelease pins)
      { State.reset with phase := .pinHeld } = some (.high, .abandoned, .idle) := by decide +kernel

/-- A power-on reset with RESET LOW at the end of the interval goes on (R2). -/
theorem test_powerOnIntervalEnd_low :
    seen (·.phase) (.powerOnIntervalEnd .low pins)
      { State.reset with phase := .powerOnInterval 4096, resetLow := 16 } = some .pinHeld := by
  decide +kernel

theorem test_frameStart_status : seen (fun t => (t.port 2).status) (.frameStart 2) (State.unsampled State.reset) = some 0x80 := by decide +kernel

theorem test_emptyFrame_keeps_marks :
    seen (fun t => ((t.port 0).recv, (t.port 0).resetSeen)) (.emptyFrame 0) idle = some (.idle, true) := by decide +kernel

theorem test_abandonedFrameEnd :
    seen (fun t => (t.port 0).recv) (.abandonedFrameEnd 0)
      (State.unsampled (State.reset.setPort 0 { PortIf.reset with recv := .abandoned })) = some .idle := by decide +kernel

/-- A one-byte READ frame clears RST and renews the leases of its port (R183, R104). -/
theorem test_readFrame :
    seen (fun t => ((t.port 0).resetSeen, (t.claim 3).leaseDue)) (.readFrame 0 [])
      (State.heldBy { idle with now := 400000 } 3 0 8100000 [2]) = some (false, some 8400000) := by decide +kernel

/-- Eight of 44 response bytes clocked: the command collides (10, A Collision and Its Recovery). -/
theorem test_collision :
    seen (fun t => ((t.port 0).collided, (t.engine 1).position)) (sent 0 0x30 [1, 0, 0, 0, 0])
      (State.inFrame ((State.heldBy State.reset 1 0 9 []).setPort 0
        { PortIf.reset with slot := some { code := .ok, tag := 1, payload := List.replicate 40 0 } }) 0)
      = some (true, 0) := by decide +kernel

/-- P0 in a frame in which PING's code has arrived, and 7 bits of the tag byte 0xA5. -/
def arriving : State :=
  { idle.setPort 0 { idle.port 0 with frameBytes := [0x01], wholeBytes := 1, bits := (bitsOf 0xA5).take 7, shifted := 14 } with
    wires := #v[[[.fall, .rise .high]], [], [], []] }

/-- The eighth rising edge makes a whole byte, most significant bit first (R179). -/
theorem test_eighth_bit :
    (match step arriving with
      | .next t => some ((t.port 0).frameBytes, (t.port 0).wholeBytes, (t.port 0).bits, t.now)
      | _ => none) = some ([0x01, 0xA5], 2, [], 1) := by decide +kernel

/-- A frame ends with the bytes that have arrived, and with no others. -/
theorem test_frame_of_other_bytes :
    after (.ping 0 [0xB5]) arriving = some arriving ∧ answer 0 (.ping 0 [0xA5]) arriving = some (.badLength, [0x01, 0, 2]) := by
  decide +kernel

/-- The response of the example of chapter 10, on the wire after the status byte RESP. -/
theorem test_clocked_out :
    seen (fun t => ((List.range 6).map (sdoByte (t.port 0)), sdoLevel (t.port 0))) (.frameStart 0)
      (State.unsampled (State.reset.setPort 0 { PortIf.reset with
        resetSeen := false, slot := some { code := .ok, tag := 3, payload := [] } }))
      = some ([0x20, 0x00, 0x03, 0x00, 0x14, 0x00], .low) := by decide +kernel

/-- Status byte 0x20: its third bit is carried from the second falling edge to the third, whatever rises (R206). -/
theorem test_data_out_changes_on_falling_edges :
    (List.range 6).map (fun n => sdoLevel (([.rise .low, .fall, .rise .high, .fall, .rise .low, .fall].take n).foldl
      (fun pt e => takeEdge e pt) { PortIf.reset with recv := .receiving, status := 0x20 }))
      = [.low, .low, .low, .low, .high, .high] := by decide +kernel

/-- Select is sampled once a tick: no frame starts at the tick at which one ended (R179). -/
theorem test_frame_needs_select_high :
    ((after (.readFrame 0 []) idle).bind (after (.frameStart 0))).map (fun t => (t.port 0).recv) = some .idle := by
  decide +kernel

theorem test_bad_crc : answer 0 (.ping 0 [3, 0, 0x7E]) idle = some (.badCrc, [0x01]) := by decide +kernel

theorem test_bad_length : answer 0 (.claim 0 [3, 1, 0, crc8 [0x10, 3, 1, 0]]) idle = some (.badLength, [0x10, 1, 5]) := by
  decide +kernel

theorem test_unknownCommand : answer 0 (sent 0 0x99 [1, 2]) idle = some (.unknownCommand, [0x99]) := by decide +kernel

theorem test_ping : answer 0 (sent 0 0x01 [7, 8, 9]) idle = some (.ok, [7, 8, 9]) := by decide +kernel

/-- Part 418 is 0x01A2 (R193). -/
theorem test_identify : answer 0 (sent 0 0x02 []) idle = some (.ok, [0x2E, 0xA2, 0x01, 1, 8, 4, 0]) := by decide +kernel

theorem test_portReset : answer 0 (sent 0 0x70 []) (State.heldBy idle 3 0 9 [2]) = some (.ok, [1, 0, 0, 0]) := by
  decide +kernel

theorem test_portReset_passes :
    seen (fun t => ((t.claim 3).holder, (t.queue 2).notices.map (·.value))) (sent 0 0x70 [])
      (State.heldBy idle 3 0 9 [2, 1]) = some (some 2, [3]) := by decide +kernel

theorem test_deviceReset_needs_DEV : answer 0 (sent 0 0x71 []) idle = some (.notClaimed, [8, 0xFF]) := by decide +kernel

theorem test_deviceReset :
    seen (fun t => (t.now, (t.port 0).resetSeen, (t.port 1).resetSeen)) (sent 0 0x71 [])
      (State.heldBy { idle with now := 77 } 8 0 99 []) = some (0, false, true) := by decide +kernel

/-! ### Lines and engines -/

/-- Tick 105 of the example of chapter 1: five samples, then back, is a rejected glitch. -/
theorem test_glitch :
    seen (fun t => ((t.engine 2).faultTally, (t.view 3 2).faultDelta)) (.lineSample (.chan 2 ⟨.low, .low, .low⟩))
      (State.reset.setChanSettings 2 { inMode .tally with filterStep := 2 } |>.setChanLines 2
        { a := ⟨.high, .low, 5⟩, b := Conditioner.reset, z := Conditioner.reset, sampled := false })
      = some (1, 1) := by decide +kernel

/-- Tick 117 of the same example: the eighth sample is a rising edge, and it counts. -/
theorem test_filteredEdge :
    seen (fun t => ((t.engine 2).runningCount, (t.chanLines 2).a.filtered))
      (.filteredEdge (.chan 2 ⟨.high, .low, .low⟩))
      ((State.reset.setChanSettings 2 { inMode .tally with filterStep := 2 }).setEngine 2
          { Engine.reset with modeState := .gateOpen } |>.setChanLines 2
        { a := ⟨.high, .low, 7⟩, b := Conditioner.reset, z := Conditioner.reset, sampled := false })
      = some (1, .high) := by decide +kernel

/-- Tick 5,150 of the example of chapter 2: the qualified index loads the home value. -/
theorem test_homing_index :
    seen (fun t => ((t.engine 0).position, (t.engine 0).referenced, (t.ring 0).entries.map (fun e => (e.value, e.homing))))
      (.filteredEdge (.chan 0 ⟨.low, .low, .high⟩)) homing = some (1000, true, [(4, true)]) := by decide +kernel

/-- Tick 5,230: both lines at once are a phase error, which keeps the position. -/
theorem test_phase_error :
    seen (fun t => ((t.engine 0).position, (t.engine 0).referenced, (t.engine 0).faultTally))
      (.filteredEdge (.chan 0 ⟨.high, .high, .low⟩))
      (State.withChan State.reset 0 quadSettings { quadEngine with position := 1000, referenced := true })
      = some (1000, false, 1) := by decide +kernel

/-- The overrange of the SPAN example of chapter 3. -/
theorem test_overrangeExpiry :
    seen (fun t => ((t.ring 5).entries.map (fun e => (e.value, e.timestamp, e.overrange)), (t.engine 5).modeState))
      (.overrangeExpiry 5)
      (State.withChan { State.reset with now := 4295011297 } 5 (inMode .span)
        { Engine.reset with modeState := .timing 44002 })
      = some ([(4294967295, 4295011297, true)], .waitFirst) := by decide +kernel

/-- Tick 28,000 of the same example: a period of 16,000 ticks. -/
theorem test_span_period :
    seen (fun t => (t.ring 5).entries.map (fun e => (e.seq, e.value))) (.lineSample (.chan 5 ⟨.high, .low, .low⟩))
      ((State.withChan { State.reset with now := 28000 } 5 (inMode .span)
        { Engine.reset with modeState := .timing 12000 }).setRing 5 { entries := [], next := 37 })
      = some [(37, 16000)] := by decide +kernel

/-! ### Expiries -/

/-- Tick 8,500,000 of the example of chapter 6. -/
theorem test_leaseExpiry :
    seen (fun t => (t.claim 3, (t.queue 2).notices.map (fun n => (n.value, n.aux)),
        (t.queue 1).notices.map (fun n => (n.value, n.aux))))
      (.leaseExpiry 3) (State.heldBy { State.reset with now := 8500000 } 3 2 8500000 [1])
      = some (⟨some 1, [], some 16500000⟩, [(50, 1)], [(2, 2)]) := by decide +kernel

/-- Tick 93,000 of the example of chapter 8. -/
theorem test_armLimitExpiry :
    seen (fun t => (t.queue 1).notices.map (fun n => (n.kind, n.value, n.aux))) (.armLimitExpiry 0)
      ({ State.reset with now := 93000 }.setSlot 0 { generation := 2, body := some (waiting (.line 0) (some 93000)) })
      = some [(.snapshotExpired, 1, 0)] := by decide +kernel

theorem test_timeTargetReached :
    seen (fun t => (t.queue 1).notices.map (·.kind)) (.timeTargetReached 70)
      ({ State.reset with now := 70 }.setSlot 0 { generation := 1, body := some (waiting (.time 70) none) })
      = some [.snapshotReady] := by decide +kernel

/-! ### Claims and settings -/

theorem test_claim_granted : answer 0 (sent 0 0x10 [3, 0]) idle = some (.granted, [3, 50]) := by decide +kernel

/-- Tick 300,000 of the example of chapter 6, by P0: position 2 behind P2. -/
theorem test_claim_queued : answer 0 (sent 0 0x10 [3, 1]) (State.heldBy idle 3 3 9 [2]) = some (.queued, [3, 3, 2]) := by
  decide +kernel

theorem test_release : answer 0 (sent 0 0x11 [3]) (State.heldBy idle 3 0 9 [2]) = some (.ok, [3, 2]) := by decide +kernel

/-- Tick 200,000 of the example of chapter 6: the gate refuses before the mode code 9 is seen. -/
theorem test_setChannel_gate :
    answer 0 (sent 0 0x20 (3 :: (chanSettingsBytes ChanSettings.default).set 0 9)) (State.heldBy idle 3 1 9 [2])
      = some (.notClaimed, [3, 1]) := by decide +kernel

theorem test_setChannel_structural :
    answer 0 (sent 0 0x20 (3 :: chanSettingsBytes (inMode .width))) (State.heldBy idle 3 0 9 []) = some (.ok, [1, 0, 1]) := by
  decide +kernel

theorem test_getChannel :
    answer 0 (sent 0 0x21 [2]) idle = some (.ok, [2, 0, 3, 2, 0, 0, 0, 0, 1, 4, 1, 0, 0, 0, 0, 0, 0]) := by decide +kernel

theorem test_setDevice_relengths :
    seen (fun t => ((t.claim 3).leaseDue, t.device.quota)) (sent 0 0x22 [100, 24, 1, 0, 3])
      (State.heldBy (State.heldBy idle 8 0 9 []) 3 1 9 []) = some (some 16000000, 24) := by decide +kernel

theorem test_getDevice : answer 0 (sent 0 0x23 []) idle = some (.ok, [50, 6, 0, 0, 3]) := by decide +kernel

theorem test_setPort : answer 0 (sent 0 0x24 [0x80, 0x0F]) idle = some (.ok, [0x80, 0x0F, 0, 1]) := by decide +kernel

theorem test_preset :
    seen (fun t => ((t.engine 0).position, (t.engine 0).referenced)) (sent 0 0x30 [0, 0x0C, 0xFE, 0xFF, 0xFF])
      (State.heldBy (State.inFrame (State.withChan State.reset 0 quadSettings { quadEngine with referenced := true }) 0)
        0 0 9 []) = some (-500, false) := by decide +kernel

theorem test_home_wrong_mode : answer 0 (sent 0 0x31 [0]) (State.heldBy idle 0 0 9 []) = some (.wrongMode, []) := by decide +kernel

theorem test_homeCancel : answer 0 (sent 0 0x32 [0]) (State.heldBy (State.inFrame homing 0) 0 0 9 []) = some (.ok, [1]) := by
  decide +kernel

theorem test_readChannel :
    answer 0 (sent 0 0x33 [0]) (State.inFrame homing 0) =
      some (.ok, [0, 1, 0, 0, 2, 4, 0, 0, 0, 0, 0, 0, 0, 0, 0, 0, 0] ++ List.replicate 17 0 ++ [0x1E, 0x14, 0, 0, 0, 0]) := by
  decide +kernel

/-! ### Views, snapshots and notices -/

theorem test_take :
    answer 0 (sent 0 0x40 [1]) ({ idle with now := 1050 }.setView 0 1
        { View.fresh 900 0 with eventDelta := 5, eventAbove := true })
      = some (.ok, [5, 0, 0, 0, 0, 0, 0, 0x84, 3, 0, 0, 0, 0, 0x1A, 4, 0, 0, 0, 0]) := by decide +kernel

theorem test_peekView_keeps :
    seen (fun t => (t.view 0 1).eventDelta) (sent 0 0x41 [1])
      (idle.setView 0 1 { View.fresh 900 0 with eventDelta := 5 }) = some 5 := by decide +kernel

/-- A threshold set below the delta marks at once (R85); the window is INSIDE at its bounds (R88). -/
theorem test_setView :
    answer 0 (sent 0 0x42 [0, 3, 0, 0, 0, 0, 0, 1, 4, 0, 0, 0, 4, 0, 0, 0, 1])
      ((State.inFrame homing 0).setView 0 0 { View.fresh 0 0 with eventDelta := 4 }) = some (.ok, [1, 1]) := by decide +kernel

theorem test_drain_empty : answer 0 (sent 0 0x43 [2, 4]) idle = some (.ok, [0, 0, 0, 0, 0, 0, 0, 0]) := by decide +kernel

/-- Tick 10,000 of the example of chapter 8: handle 0/1, CAPTURED, not late. -/
theorem test_snapArm :
    answer 0 (sent 0 0x50 ([1, 3] ++ List.replicate 17 0)) { idle with now := 10000 }
      = some (.ok, [0, 1, 2, 0, 0x10, 0x27, 0, 0, 0, 0]) := by decide +kernel

/-- A handle of an older generation is unknown (tick 14,000 of the same example). -/
theorem test_snapRead_stale :
    answer 0 (sent 0 0x51 [0, 1]) (idle.setSlot 0 { generation := 2, body := some (waiting (.line 0) none) })
      = some (.unknownSnapshot, []) := by decide +kernel

theorem test_snapDiscard :
    answer 0 (sent 0 0x52 [0, 2])
      (idle.setSlot 0 { generation := 2, body := some { waiting (.line 0) none with owner := 0, phase := .expired .timeout } })
      = some (.ok, [3]) := by decide +kernel

theorem test_snapList :
    answer 0 (sent 0 0x53 []) ((idle.setSlot 7 { generation := 9, body := some { waiting (.line 0) none with owner := 0 } }).setHeldCount 0 1)
      = some (.ok, [1, 6, 1, 7, 9, 1]) := by decide +kernel

/-- A notice of P0 for C1. -/
def news (k : NoticeKind) : Notice := { kind := k, source := .channel 1, time := 2000, value := 5, aux := 4 }

/-- The FETCH of tick 4,000 in the example of chapter 9: two go, two stay, and the line stays LOW. -/
theorem test_fetch :
    seen (fun t => ((t.queue 0).notices.map (·.kind), t.intLevel 0)) (sent 0 0x60 [2])
      ((idle.setWakeSet 0 0xF80).setQueue 0
        { Queue.reset with notices := [news .threshold, news .window, news .snapshotReady, news .window] })
      = some ([.snapshotReady, .window], .low) := by decide +kernel

/-! ### Witnesses

Each theorem `witness_<statement>` shows concrete values that meet every hypothesis of that statement together;
where the statement has several cases, it shows one for each, at the bounds of their ranges. -/

/-- A whole frame of P0 with tag 5 and no fill, dispatched at `s`. -/
def Sends (code : Byte) (payload : List Byte) (s : State) : Prop :=
  Dispatched 0 code 0x05 payload (frameRest code 0x05 payload []) s

/-- P0 is in a frame of which nothing has arrived, and its slot is empty. -/
abbrev Awaits (s : State) : Prop :=
  s.running ∧ (s.port 0).recv = .receiving ∧ (s.port 0).slot = none ∧ (s.port 0).selSampled = false ∧
    (s.port 0).wholeBytes = 0 ∧ (s.port 0).frameBytes = [] ∧ (s.port 0).bits = []

theorem sends_of {code : Byte} {payload : List Byte} {s : State}
    (h : Awaits s ∧ payload.length ≤ 24 ∧ acceptsLength code payload.length = true) : Sends code payload s :=
  ⟨⟨h.1.1, h.1.2.1, h.1.2.2.2.1, hasReceived_of_nothing _ h.1.2.2.2.2.1 h.1.2.2.2.2.2.1 h.1.2.2.2.2.2.2⟩,
    .inl h.1.2.2.1, h.2.1, h.2.2, [], rfl⟩

/-- A frame may also clear the slot by clocking out the whole response presented in it. -/
theorem witness_SlotClears_by_clocking :
    SlotClears 0 (List.replicate 5 0) (State.inFrame
      (State.reset.setPort 0 { PortIf.reset with slot := some { code := .ok, tag := 0, payload := [] } }) 0) :=
  .inr ⟨{ code := .ok, tag := 0, payload := [] }, rfl, by decide⟩

/-- P0 in a frame, holding resource `r`. -/
def owner (r : Resource) : State := State.heldBy idle r 0 8000000 []

/-- The state during a RESET pin reset. -/
def inReset : State := { State.reset with phase := .pinHeld }

/-- A channel of the state after reset with one excursion of A in progress, not sampled at this tick. -/
def excursion (count : Nat) (step : Fin 8) (m : Mode) : State :=
  (State.withChan State.reset 0 { inMode m with filterStep := step } Engine.reset).setChanLines 0
    { a := ⟨.high, .low, count⟩, b := Conditioner.reset, z := Conditioner.reset, sampled := false }

theorem witness_StepRunsFrontCommand :
    ({ State.reset with pending := [.powerOn, .resetPinAssert] }).pending = .powerOn :: [.resetPinAssert] := rfl

/-- Resets at their end and before it; a pin reset, a sample and a lease due; nothing owed, with edges for a
receiving port that has 6 or 7 bits, and for one that is IDLE. -/
theorem witness_IdleStepPassesTime :
    (inReset.pending = [] ∧ ¬ inReset.running ∧ inReset.owed ≠ []) ∧
    ({ inReset with resetLow := 16 }).owed = [] ∧
    (({ State.reset with phase := .powerOnInterval 4095, resetLow := 1 }).owed = [] ∧
      ({ State.reset with phase := .powerOnInterval 4096 }).owed ≠ []) ∧
    ({ State.reset with resetLow := 16 }).owed ≠ [] ∧
    ((excursion 1 1 .tally).pending = [] ∧ (excursion 1 1 .tally).running ∧ (excursion 1 1 .tally).owed ≠ []) ∧
    ((State.heldBy State.reset 8 3 0 []).pending = [] ∧ (State.heldBy State.reset 8 3 0 []).owed ≠ []) ∧
    (arriving.pending = [] ∧ arriving.running ∧ arriving.owed = [] ∧
      (tget arriving.wires 0).headD [] = [.fall, .rise .high] ∧ (arriving.port 0).recv = .receiving ∧
      (arriving.port 0).bits.length = 7 ∧ (arriving.port 3).recv ≠ .receiving) ∧
    (let s := arriving.setPort 0 { arriving.port 0 with bits := (bitsOf 0xA5).take 6 }
     s.pending = [] ∧ s.running ∧ s.owed = [] ∧ (tget s.wires 0).headD [] = [.fall, .rise .high] ∧
      (s.port 0).recv = .receiving ∧ (s.port 0).bits.length < 7) := by decide +kernel

/-- Every kind of wait, due now, at tick 0 after the wrap of the timebase. -/
def allDue : State :=
  (((State.reset.setEngine 0 { Engine.reset with modeState := .timing (-4294967295) }
    |>.setEngine 7 { Engine.reset with modeState := .inPulse (-4294967295) }).setClaim 8
      { holder := some 3, waiters := [], leaseDue := some 0 }).setSlot 0
      { generation := 1, body := some (waiting (.line 1) (some 0)) }).setSlot 23
      { generation := 1, body := some (waiting (.time 0) none) }

/-- Every wait due, with a pin reset; an excursion of a channel at the sample before its stable time falls due, and at
it; one that has returned; an unfiltered capture line. -/
theorem witness_DueWaitsAreQueued :
    (allDue.pending = [] ∧ allDue.running) ∧
    (({ allDue with resetLow := 16 }).pending = [] ∧ 16 ≤ ({ allDue with resetLow := 16 }).resetLow) ∧
    ((allDue.claim 8).holder.isSome = true ∧ (allDue.claim 8).leaseDue = some allDue.now) ∧
    (allDue.engine 0).modeState = .timing (-4294967295) ∧ (allDue.engine 7).modeState = .inPulse (-4294967295) ∧
    allDue.now = -4294967295 + 4294967295 ∧
    (allDue.slot 0).body = some (waiting (.line 1) (some allDue.now)) ∧
    (allDue.slot 23).body = some (waiting (.time allDue.now) none) ∧
    ([2, 3].map (fun n => match step (excursion n 1 .tally) with | .next t => t.pending | _ => []) =
      [[.lineSample (.chan 0 ⟨.high, .low, .low⟩)], [.filteredEdge (.chan 0 ⟨.high, .low, .low⟩)]]) ∧
    (match step (State.reset.setCap 1 ⟨⟨.low, .low, 15⟩, false⟩) with | .next t => t.pending | _ => []) =
      [.lineSample (.cap 1 .low)] ∧
    (match step ({ State.reset with device := { DeviceSettings.default with lineFilterStep := 0 } }.setCap 1
      ⟨⟨.high, .low, 0⟩, false⟩) with | .next t => t.pending | _ => []) = [.filteredEdge (.cap 1 .high)] := by
  decide +kernel

theorem witness_ResetStarts :
    (State.reset.running ∧ State.reset.resetLow < 16) ∧
    ({ State.reset with resetLow := 16 }).running ∧ 16 ≤ ({ State.reset with resetLow := 16 }).resetLow := by decide

theorem witness_ResetEnds :
    (∀ n, ({ State.reset with phase := .powerOnInterval n }).phase = .powerOnInterval n) ∧
    (inReset.phase = .pinHeld ∧ inReset.resetLow = 0) ∧
    ({ inReset with resetLow := 1 }).phase = .pinHeld ∧ 0 < ({ inReset with resetLow := 1 }).resetLow :=
  ⟨fun _ => rfl, ⟨rfl, rfl⟩, rfl, by decide⟩

theorem witness_NothingIsTakenInReset :
    ¬ inReset.running ∧ (Instr.frameStart 3).wellFormed = true ∧ Instr.frameStart 3 ≠ .powerOn ∧
    (∀ l pins, Instr.frameStart 3 ≠ .powerOnIntervalEnd l pins) ∧ ∀ pins, Instr.frameStart 3 ≠ .resetPinRelease pins :=
  ⟨by decide, rfl, nofun, nofun, nofun⟩

theorem witness_SampleStepsConditioners :
    (excursion 1 1 .tally).running ∧ ((excursion 1 1 .tally).chanLines 0).sampled = false ∧
    ((State.reset.setCap 1 ⟨Conditioner.reset, false⟩).cap 1).sampled = false ∧
    (State.reset.chanLines 7).sampled = true ∧ (State.reset.cap 1).sampled = true := by decide +kernel

/-- The sample at which the count of filter step 1 reaches its length, 4, the one before it, and an unfiltered capture
line. -/
theorem witness_FilteredEdgeIsItsSample :
    ((excursion 3 1 .tally).running ∧ (excursion 3 1 .tally).sampledNow (.chan 0 ⟨.high, .low, .low⟩) = false ∧
      (excursion 3 1 .tally).edgeDue (.chan 0 ⟨.high, .low, .low⟩) = true) ∧
    ((excursion 2 1 .tally).sampledNow (.chan 0 ⟨.high, .low, .low⟩) = false ∧
      (excursion 2 1 .tally).edgeDue (.chan 0 ⟨.high, .low, .low⟩) = false) ∧
    ∀ n : CapIdx, ({ State.reset with device := { DeviceSettings.default with lineFilterStep := 0 } }.setCap n
      ⟨Conditioner.reset, false⟩).edgeDue (.cap n .high) = true := by decide +kernel

/-- Back after 3 of 4 samples: no edge, one rejected glitch on a used line; and an edge in OFF. -/
theorem witness_GlitchesOnUsedLinesAreFaults :
    (excursion 3 1 .tally).running ∧ ((excursion 3 1 .tally).chanLines 0).sampled = false ∧
    (excursion 3 1 .tally).edgeDue (.chan 0 ⟨.low, .low, .low⟩) = false ∧
    usedGlitches ((excursion 3 1 .tally).chanSettings 0) ⟨.low, .low, .low⟩ ((excursion 3 1 .tally).chanLines 0) = 1 ∧
    ((excursion 3 1 .off).running ∧ ((excursion 3 1 .off).chanLines 0).sampled = false ∧
      ((excursion 3 1 .off).chanSettings 0).mode = .off ∧ (excursion 3 1 .off).edgeDue (.chan 0 ⟨.high, .low, .low⟩) = true) := by
  decide +kernel

/-- A TALLY channel, unfiltered, with gate HIGH and its gate closed. -/
def gated : State := State.withChan State.reset 0 { inMode .tally with gate := .high } { Engine.reset with modeState := .gateClosed }

/-- An edge of A and one of B in one report, and an edge of A alone. -/
theorem witness_TallyCountsSelectedEdges :
    gated.running ∧ (gated.chanLines 0).sampled = false ∧ (gated.chanSettings 0).mode = .tally ∧
    seen (fun t => ((t.chanLines 0).a.filtered, (t.chanLines 0).b.filtered, (t.engine 0).modeState))
      (.lineSample (.chan 0 ⟨.high, .high, .low⟩)) gated = some (.high, .high, .gateOpen) ∧
    seen (fun t => ((t.chanLines 0).a.filtered, (t.chanLines 0).b.filtered, (t.engine 0).modeState))
      (.lineSample (.chan 0 ⟨.high, .low, .low⟩)) gated = some (.high, .low, .gateClosed) := by decide +kernel

/-- C0 in QUAD with homing not armed. -/
def counting : State := State.withChan State.reset 0 quadSettings quadEngine

/-- A legal transition and a phase error are both met, homing armed and not. -/
theorem witness_QuadDecodesTransitions :
    (∀ s ∈ [counting, homing], s.running ∧ (s.chanLines 0).sampled = false ∧ (s.chanSettings 0).mode = .quad ∧
      (s.engine 0).modeState = .quad (filteredAB (s.chanLines 0))) ∧
    ((counting.engine 0).homingArmed = false ∧ (homing.engine 0).homingArmed = true) ∧
    seen (fun t => (filteredAB (t.chanLines 0), (t.chanLines 0).z.filtered)) (.lineSample (.chan 0 ⟨.high, .low, .high⟩))
      homing = some (⟨.high, .low⟩, .high) ∧
    seen (fun t => filteredAB (t.chanLines 0)) (.lineSample (.chan 0 ⟨.high, .low, .low⟩)) counting = some ⟨.high, .low⟩ ∧
    seen (fun t => filteredAB (t.chanLines 0)) (.lineSample (.chan 0 ⟨.high, .high, .low⟩)) counting
      = some ⟨.high, .high⟩ := by decide +kernel

/-- The index of the example of chapter 2, with a snapshot waiting for it, and the same with homing not armed. -/
theorem witness_QualifiedIndexIsTaken :
    ∀ e ∈ [{ quadEngine with homingArmed := true }, quadEngine],
    let s := (homing.setEngine 0 e).setSlot 23 { generation := 1, body := some (waiting (.index 0) none) }
    s.running ∧ (s.chanLines 0).sampled = false ∧ (s.chanSettings 0).mode = .quad ∧
    (s.engine 0).modeState = .quad (filteredAB (s.chanLines 0)) ∧
    (s.chanSettings 0).indexQuadrant = some ⟨.low, .low⟩ ∧ (s.engine 0).indexCond = false ∧
    s.edgeDue (.chan 0 ⟨.low, .low, .high⟩) = true ∧
    seen (fun t => ((t.chanLines 0).z.filtered, filteredAB (t.chanLines 0))) (.lineSample (.chan 0 ⟨.low, .low, .high⟩)) s
      = some ((s.chanSettings 0).indexPolarity, ⟨.low, .low⟩) ∧
    (s.slot 23).body = some (waiting (.index 0) none) := by decide +kernel

/-- One channel for each case: a first and a second span edge, an edge of B alone, a pulse's beginning, its end, and a
pulse in progress at entry. -/
theorem witness_EdgesEndMeasurements :
    let span (m : ModeState) := State.withChan State.reset 0 (inMode .span) { Engine.reset with modeState := m }
    let width (m : ModeState) (l : Level) := State.withChan State.reset 0 { inMode .width with widthLevel := l }
      { Engine.reset with modeState := m }
    let sample : Instr := .lineSample (.chan 0 ⟨.high, .low, .low⟩)
    ((span .waitFirst).running ∧ ((span .waitFirst).chanLines 0).sampled = false ∧
      ((span .waitFirst).chanSettings 0).mode = .span) ∧
    ((width .waitActive .high).running ∧ ((width .waitActive .high).chanLines 0).sampled = false ∧
      ((width .waitActive .high).chanSettings 0).mode = .width) ∧
    seen (fun t => ((t.chanLines 0).b.filtered, (t.engine 0).modeState)) (.lineSample (.chan 0 ⟨.low, .high, .low⟩))
      (span (.timing 5)) = some (.high, .timing 5) ∧
    seen (fun t => (t.engine 0).modeState) sample (span .waitFirst) = some (.timing 0) ∧
    seen (fun t => (t.engine 0).modeState) sample (span (.timing 5)) = some (.timing 0) ∧
    seen (fun t => (t.engine 0).modeState) sample (width .waitActive .high) = some (.inPulse 0) ∧
    seen (fun t => (t.engine 0).modeState) sample (width (.inPulse 5) .low) = some .waitActive ∧
    seen (fun t => (t.engine 0).modeState) sample (width .waitInactive .low) = some .waitActive := by decide +kernel

theorem witness_OverrangeEndsMeasurement :
    let s := { State.reset with now := 4294967295 }.setEngine 0 { Engine.reset with modeState := .timing 0 }
    let u := s.setEngine 0 { Engine.reset with modeState := .inPulse 1 }
    (s.running ∧ (s.engine 0).modeState = .timing 0 ∧ s.now = (0 : Tick) + 4294967295) ∧
    (u.running ∧ (u.engine 0).modeState = .inPulse 1 ∧ u.now ≠ (1 : Tick) + 4294967295) := by decide +kernel

/-- Both capture lines with a selected edge, a line with its selection at OFF, and a passed target. -/
theorem witness_CaptureEventsServeTheirSnapshots :
    let s := (({ State.reset with device := { DeviceSettings.default with
        lineFilterStep := 0, capEdge := #v[.rise, .both] } }.setCap 0 ⟨Conditioner.reset, false⟩).setCap 1
        ⟨Conditioner.reset, false⟩)
    s.running ∧ (∀ n, (s.cap n).sampled = false ∧ s.edgeDue (.cap n .high) = true ∧
      capSelects (tget s.device.capEdge n) .high = true) ∧
    ((State.reset.setCap 0 ⟨Conditioner.reset, false⟩).cap 0).sampled = false ∧
    capSelects (tget State.reset.device.capEdge 0) .high = false ∧ (5 : Tick) ≠ State.reset.now := by decide +kernel

theorem witness_ArmLimitExpires :
    let s := { State.reset with now := 80000 }.setSlot 23
      { generation := 255, body := some (waiting (.line 0) (some 80000)) }
    s.running ∧ (s.slot 23).body = some (waiting (.line 0) (some 80000)) ∧
    (waiting (.line 0) (some 80000)).phase = .armed [] (some s.now) := by decide +kernel

theorem witness_LeaseExpiryPassesResource :
    let s := State.heldBy { State.reset with now := 9 } 8 3 9 [1, 0]
    (s.running ∧ (s.claim 8).holder = some 3 ∧ (s.claim 8).leaseDue = some s.now) ∧
    (State.heldBy State.reset 0 0 9 []).running ∧ ((State.heldBy State.reset 0 0 9 []).claim 0).holder = some 0 ∧
    ((State.heldBy State.reset 0 0 9 []).claim 0).leaseDue ≠ some State.reset.now := by decide +kernel

/-- An empty slot, and one with a response. -/
theorem witness_FrameStartFixesWhatIsClockedOut :
    ∀ r ∈ [none, some { code := RespCode.ok, tag := 3, payload := [7, 8] }],
    let s := State.unsampled (State.reset.setPort 3 { PortIf.reset with slot := r })
    s.running ∧ (s.port 3).recv = .idle ∧ (s.port 3).selSampled = false ∧ (s.port 3).slot = r ∧
    (s.queue 3).notices.length ≤ 16 := by decide +kernel

theorem idle_inFrame (bytes : List Byte) : InFrame 0 bytes idle :=
  ⟨rfl, rfl, rfl, hasReceived_of_nothing _ rfl rfl rfl⟩

/-- An empty frame; an abandoned one; a port whose select has just been sampled; a frame of other bytes. -/
theorem witness_EmptyAndAbandonedFramesDoNothing :
    InFrame 0 [] idle ∧
    (let s := State.unsampled (State.reset.setPort 3 { PortIf.reset with recv := .abandoned })
     s.running ∧ (s.port 3).recv = .abandoned ∧ (s.port 3).selSampled = false ∧
     (Instr.ping 3 [0]).wellFormed = true ∧ frameOf (.ping 3 [0]) = some (3, [0x01, 0])) ∧
    (State.reset.port 3).selSampled = true ∧
    ((arriving.port 0).recv = .receiving ∧ hasReceived (arriving.port 0) [0x01, 0xB5] = false) :=
  ⟨idle_inFrame _, by decide +kernel⟩

/-- P0 holds a lease that is not due, one that falls due now, and not the rest. -/
theorem witness_ReadFrameClearsAndRenews :
    let s := State.heldBy (State.heldBy idle 0 0 9 [1]) 8 0 0 [3]
    InFrame 0 [0, 0xAA] s ∧ (s.claim 1).holder ≠ some 0 ∧
    ((s.claim 0).holder = some 0 ∧ (s.claim 0).leaseDue ≠ some s.now) ∧
    (s.claim 8).holder = some 0 ∧ (s.claim 8).leaseDue = some s.now ∧ s.device.leasePeriod ≠ 0 ∧
    ∀ r, (idle.claim r).leaseDue ≠ some idle.now :=
  ⟨⟨rfl, rfl, rfl, by decide +kernel⟩, by decide +kernel⟩

/-- A response of 40 bytes in the slot of P0. -/
def full : State :=
  State.inFrame (State.reset.setPort 0 { PortIf.reset with
    slot := some { code := .ok, tag := 1, payload := List.replicate 40 0 } }) 0

theorem full_stays {bytes : List Byte} (short : bytes.length < 45) : ¬ SlotClears 0 bytes full := by
  rintro (h | ⟨r, h, hl⟩)
  · exact absurd h (by decide +kernel)
  · rw [show r = { code := .ok, tag := 1, payload := List.replicate 40 0 } from (Option.some.inj h).symm] at hl
    simp at hl
    omega

/-- Each failure: one byte, two bytes, a length of 25, a byte short of the CRC, a wrong CRC, a length CLAIM does
not take; with the slot empty and with the slot full. -/
theorem witness_BadFramesAreAnswered :
    (∀ bytes, InFrame 0 bytes idle ∧ InFrame 0 bytes full) ∧ (∀ bytes, SlotClears 0 bytes idle) ∧
    ¬ SlotClears 0 [0x10] full ∧
    (∀ rest, (Instr.claim 0 rest).wellFormed = true ∧ frameOf (.claim 0 rest) = some (0, 0x10 :: rest)) ∧
    24 < (25 : Byte).toNat ∧ 1 + ([5, 24] ++ List.replicate 24 (0 : Byte)).length < 4 + (24 : Byte).toNat ∧
    ([0] : List Byte)[(0 : Byte).toNat]? ≠ some (crc8 (0x10 :: 5 :: 0 :: ([0] : List Byte).take (0 : Byte).toNat)) ∧
    ([1, crc8 [0x10, 5, 1, 1]] : List Byte)[(1 : Byte).toNat]?
      = some (crc8 (0x10 :: 5 :: 1 :: ([1, crc8 [0x10, 5, 1, 1]] : List Byte).take (1 : Byte).toNat)) ∧
    acceptsLength 0x10 (1 : Byte).toNat = false :=
  ⟨fun _ => ⟨idle_inFrame _, ⟨rfl, rfl, rfl, hasReceived_of_nothing _ rfl rfl rfl⟩⟩, fun _ => .inl rfl,
    full_stays (by decide), fun _ => ⟨rfl, rfl⟩, by decide +kernel⟩

/-- A response of 40 bytes in the slot and a PING frame of 28 whole bytes, all it may carry. -/
theorem witness_FullSlotCollides :
    let rest := frameRest 0x01 5 (List.replicate 24 7) []
    (Instr.ping 0 rest).wellFormed = true ∧ frameOf (.ping 0 rest) = some (0, 0x01 :: rest) ∧
    (List.replicate 24 (7 : Byte)).length ≤ 24 ∧ acceptsLength 0x01 24 = true ∧
    InFrame 0 (0x01 :: rest) full ∧ (full.port 0).slot.isSome = true ∧ ¬ SlotClears 0 (0x01 :: rest) full :=
  ⟨rfl, rfl, by decide, by decide, ⟨rfl, rfl, rfl, hasReceived_of_nothing _ rfl rfl rfl⟩, rfl,
    full_stays (by decide)⟩

theorem witness_FramesKeepOtherPorts :
    frameOf (.ping 0 [0]) = some (0, [0x01, 0]) ∧ (∀ rest, Instr.ping 0 [0] ≠ .deviceReset 0 rest) ∧
    (after (.ping 0 [0]) idle).isSome = true ∧ (3 : Port) ≠ 0 := ⟨rfl, nofun, by decide +kernel⟩

theorem witness_FramesDecode : (Instr.unknownCommand 0 0xFF []).wellFormed = true ∧
    frameOf (.unknownCommand 0 0xFF []) = some (0, [0xFF]) := by decide +kernel

theorem witness_UnknownCodesAreAnswered :
    (isUnknownCode 0xFF = true ∧ Sends 0xFF [] idle) ∧ isUnknownCode 0x00 = false ∧ isUnknownCode 0x71 = false :=
  ⟨⟨by decide, sends_of (by decide +kernel)⟩, by decide +kernel⟩

theorem witness_PingAndIdentifyAnswer :
    (Sends 0x01 [] idle ∧ Sends 0x01 (List.replicate 24 1) idle) ∧ Sends 0x02 [] idle :=
  ⟨⟨sends_of (by decide +kernel), sends_of (by decide +kernel)⟩, sends_of (by decide +kernel)⟩

/-- Resource 9, wait 2; then DEV free, held by P0, and held by P3 with P0 waiting or not. -/
theorem witness_ClaimSituations :
    (Sends 0x10 [9, 1] idle ∧ 8 < (9 : Byte).toNat) ∧ (Sends 0x10 [8, 2] idle ∧ 1 < (2 : Byte).toNat) ∧
    (∀ w, Sends 0x10 [byteOf (8 : Resource).val, yesNo w] idle ∧ (idle.claim 8).holder = none) ∧
    (∀ w, Sends 0x10 [byteOf (8 : Resource).val, yesNo w] (owner 8) ∧ ((owner 8).claim 8).holder = some 0) ∧
    ∀ w, ∀ ws ∈ [[0], [1]],
      Sends 0x10 [byteOf (8 : Resource).val, yesNo w] (State.heldBy idle 8 3 9 ws) ∧
      ((State.heldBy idle 8 3 9 ws).claim 8).holder = some 3 := by
  refine ⟨⟨sends_of (by decide +kernel), by decide⟩, ⟨sends_of (by decide +kernel), by decide⟩,
    fun w => ⟨sends_of ?_, rfl⟩, fun w => ⟨sends_of ?_, rfl⟩, fun w ws _ => ⟨sends_of ?_, rfl⟩⟩
  all_goals exact ⟨⟨rfl, rfl, rfl, rfl, rfl, rfl, rfl⟩, Nat.le_of_ble_eq_true rfl, rfl⟩

theorem witness_ReleaseSituations :
    (Sends 0x11 [9] idle ∧ 8 < (9 : Byte).toNat) ∧
    (Sends 0x11 [byteOf (8 : Resource).val] (owner 8) ∧ ((owner 8).claim 8).holder = some 0) ∧
    ∀ ws : List Port, Sends 0x11 [byteOf (0 : Resource).val] (State.heldBy idle 0 3 9 ws) ∧
      ((State.heldBy idle 0 3 9 ws).claim 0).holder ≠ some 0 ∧ ((State.heldBy idle 0 3 9 ws).claim 0).waiters = ws :=
  ⟨⟨sends_of (by decide +kernel), by decide⟩, ⟨sends_of (by decide +kernel), rfl⟩,
    fun _ => ⟨sends_of ⟨⟨rfl, rfl, rfl, rfl, rfl, rfl, rfl⟩, by decide, by decide⟩, nofun, rfl⟩⟩

/-- Channel 7 without a holder, and no channel 8; DEV held by P3. -/
theorem witness_GatedCommandsOfOthersAreRefused :
    (Sends 0x31 [byteOf (7 : Chan).val] idle ∧ (idle.claim ((7 : Chan).castLE (by decide))).holder ≠ some 0) ∧
    (Sends 0x30 [8, 0, 0, 0, 0] idle ∧ 8 ≤ (8 : Byte).toNat) ∧
    (Sends 0x71 [] (State.heldBy idle 8 3 9 [0]) ∧ ((State.heldBy idle 8 3 9 [0]).claim 8).holder ≠ some 0) :=
  ⟨⟨sends_of (by decide +kernel), by decide +kernel⟩, ⟨sends_of (by decide +kernel), by decide⟩,
    sends_of (by decide +kernel), by decide +kernel⟩

/-- P0, which holds channel 7, changes its mode. -/
theorem witness_SettingsChangeByHoldersAlone :
    let i := sent 0 0x20 (7 :: chanSettingsBytes (inMode .quad))
    (frameOf i).map (·.1) = some 0 ∧
    seen (fun t => (t.chanSettings 7).mode) i (owner 7) = some .quad ∧
    seen (fun t => t.device.quota) (sent 0 0x22 [50, 24, 0, 0, 3]) (owner 8) = some 24 := by decide +kernel

/-- Channel 7 in QUAD with a quadrant, held by P0, in a frame. -/
def quadHeld : State := State.heldBy (State.inFrame (State.withChan State.reset 7 quadSettings quadEngine) 0) 7 0 9 []

theorem witness_TuningChangeKeepsCounts :
    Sends 0x20 (byteOf (7 : Chan).val :: chanSettingsBytes { quadSettings with indexQuadrant := none }) quadHeld ∧
    (quadHeld.claim ((7 : Chan).castLE (by decide))).holder = some 0 ∧
    { quadHeld.chanSettings 7 with indexQuadrant := none } = { quadSettings with indexQuadrant := none } :=
  ⟨sends_of (by decide +kernel), by decide +kernel⟩

theorem witness_StructuralChangeReconfigures :
    Sends 0x20 (byteOf (7 : Chan).val :: chanSettingsBytes (inMode .width)) quadHeld ∧
    (quadHeld.claim ((7 : Chan).castLE (by decide))).holder = some 0 ∧
    { quadHeld.chanSettings 7 with
      indexQuadrant := (inMode .width).indexQuadrant, indexPolarity := (inMode .width).indexPolarity
      homeValue := (inMode .width).homeValue } ≠ inMode .width :=
  ⟨sends_of (by decide +kernel), by decide +kernel⟩

theorem witness_StoredRecordsAreReported :
    (Sends 0x21 [8] idle ∧ 7 < (8 : Byte).toNat) ∧ Sends 0x21 [byteOf (7 : Chan).val] idle ∧ Sends 0x23 [] idle :=
  ⟨⟨sends_of (by decide +kernel), by decide⟩, sends_of (by decide +kernel), sends_of (by decide +kernel)⟩

theorem witness_ReadChannelReportsLiveState :
    (Sends 0x33 [8] idle ∧ 7 < (8 : Byte).toNat) ∧ Sends 0x33 [byteOf (7 : Chan).val] idle :=
  ⟨⟨sends_of (by decide +kernel), by decide⟩, sends_of (by decide +kernel)⟩

theorem witness_SetDeviceActsOnChangedFields :
    ∀ quota ∈ ([1, 24] : List Byte), let new := { DeviceSettings.default with quota := quota, leasePeriod := 0 }
      Sends 0x22 (deviceSettingsBytes new) (owner 8) ∧ ((owner 8).claim 8).holder = some 0 ∧
      1 ≤ new.quota.toNat ∧ new.quota.toNat ≤ 24 := by
  intro quota h new
  exact ⟨sends_of ⟨⟨rfl, rfl, rfl, rfl, rfl, rfl, rfl⟩, by simp [new, deviceSettingsBytes], by simp [new, deviceSettingsBytes]; decide⟩, rfl,
    (show ∀ q ∈ ([1, 24] : List Byte), 1 ≤ q.toNat ∧ q.toNat ≤ 24 by decide) quota h⟩

theorem witness_SetPortStoresWakeSet : Sends 0x24 (le2 0x0FFF) idle ∧ (0x0FFF : Half).toNat < 4096 :=
  ⟨sends_of (by decide +kernel), by decide⟩

theorem witness_PresetSetsPosition :
    (Sends 0x30 (byteOf (7 : Chan).val :: le4 (-1)) (owner 7) ∧
      ((owner 7).claim ((7 : Chan).castLE (by decide))).holder = some 0 ∧ ((owner 7).chanSettings 7).mode ≠ .quad) ∧
    (Sends 0x30 (byteOf (7 : Chan).val :: le4 (-1)) quadHeld ∧
      (quadHeld.claim ((7 : Chan).castLE (by decide))).holder = some 0 ∧ (quadHeld.chanSettings 7).mode = .quad) :=
  ⟨⟨sends_of (by decide +kernel), by decide +kernel⟩, sends_of (by decide +kernel), by decide +kernel⟩

theorem witness_HomeArmsAndCancelDisarms :
    (Sends 0x31 [byteOf (7 : Chan).val] quadHeld ∧
      (quadHeld.claim ((7 : Chan).castLE (by decide))).holder = some 0 ∧
      (quadHeld.chanSettings 7).mode = .quad ∧ (quadHeld.chanSettings 7).indexQuadrant ≠ none) ∧
    (Sends 0x31 [byteOf (7 : Chan).val] (owner 7) ∧
      ((owner 7).claim ((7 : Chan).castLE (by decide))).holder = some 0 ∧ ((owner 7).chanSettings 7).mode ≠ .quad) ∧
    Sends 0x32 [byteOf (7 : Chan).val] (owner 7) :=
  ⟨⟨sends_of (by decide +kernel), by decide +kernel⟩, ⟨sends_of (by decide +kernel), by decide +kernel⟩,
    sends_of (by decide +kernel)⟩

theorem witness_TakeAndPeekReportView :
    (Sends 0x40 [8] idle ∧ Sends 0x41 [8] idle ∧ 7 < (8 : Byte).toNat) ∧ Sends 0x40 [byteOf (7 : Chan).val] idle ∧
    Sends 0x41 [byteOf (7 : Chan).val] idle :=
  ⟨⟨sends_of (by decide +kernel), sends_of (by decide +kernel), by decide⟩, sends_of (by decide +kernel),
    sends_of (by decide +kernel)⟩

/-- A window of one position, and every kind subscribed. -/
theorem witness_SetViewStoresSettings :
    Sends 0x42 (byteOf (7 : Chan).val :: le4 1 ++ le2 0 ++ [yesNo true] ++ le4 (-1) ++ le4 (-1)
      ++ [(0x7F : BitVec 7).setWidth 8]) idle ∧ (-1 : Word).toInt ≤ (-1 : Word).toInt :=
  ⟨sends_of (by decide +kernel), by decide⟩

/-- A ring of one entry that the cursors have not passed. -/
def oneEntry : State :=
  idle.setRing 7 { entries := [⟨0, .period, 9, 9, false, false⟩], next := 1 }

theorem witness_DrainReturnsUnreadEntries :
    (Sends 0x43 [8, 1] oneEntry ∧ 7 < (8 : Byte).toNat) ∧
    (Sends 0x43 [7, 0] oneEntry ∧ (0 : Byte).toNat = 0) ∧ (Sends 0x43 [7, 5] oneEntry ∧ 4 < (5 : Byte).toNat) ∧
    Sends 0x43 [byteOf (7 : Chan).val, 4] oneEntry ∧ Sends 0x43 [byteOf (7 : Chan).val, 1] oneEntry ∧
    RingInv oneEntry :=
  ⟨⟨sends_of (by decide +kernel), by decide⟩, ⟨sends_of (by decide +kernel), by decide⟩,
    ⟨sends_of (by decide +kernel), by decide⟩, sends_of (by decide +kernel), sends_of (by decide +kernel),
    by unfold RingInv; decide +kernel⟩

theorem witness_ViewCommandsReachOwnViewsOnly :
    (Instr.take 0 [] = .take 0 [] ∨ Instr.take 0 [] = .peekView 0 []) ∧
    (after (sent 0 0x40 [7]) idle).isSome = true ∧ (3 : Port) ≠ 0 := by decide +kernel

/-- The payload of a SNAP_ARM for channel 7. -/
def armBytes (source arg : Byte) (target : Tick) (limit : Half) : List Byte :=
  [1, 7] ++ List.replicate 7 0 ++ [source, arg] ++ le6 target ++ le2 limit

/-- Slot 0 taken, a CAP edge selected, channel 7 in QUAD with a quadrant. -/
def armable : State :=
  (State.inFrame (State.withChan { State.reset with
      device := { DeviceSettings.default with capEdge := #v[.off, .both] } } 7 quadSettings quadEngine) 0).setSlot 0
    { generation := 1, body := some (waiting (.time 70) none) }

/-- Each source that passes the checks, with slot 1 the lowest FREE. -/
theorem witness_SnapArmTakesLowestSlot :
    (∀ b ∈ [armBytes 0 0xEE 0 0, armBytes 1 1 0 5, armBytes 2 7 0 5, armBytes 3 0 70 65535],
      Sends 0x50 b armable ∧ ListsChannels b [7]) ∧
    armable.heldCount 0 < armable.device.quota.toNat ∧ LowestFree 1 armable ∧
    (byteAt (armBytes 1 1 0 5) 9 = 1 ∧ byteAt (armBytes 1 1 0 5) 10 = byteOf (1 : CapIdx).val ∧
      tget armable.device.capEdge 1 ≠ .off) ∧
    (byteAt (armBytes 2 7 0 5) 9 = 2 ∧ byteAt (armBytes 2 7 0 5) 10 = byteOf (7 : Chan).val ∧
      (armable.chanSettings 7).mode = .quad ∧ (armable.chanSettings 7).indexQuadrant ≠ none) ∧
    byteAt (armBytes 0 0xEE 0 0) 9 = 0 ∧ byteAt (armBytes 3 0 70 65535) 9 = 3 := by
  refine ⟨fun b h => ?_, by decide +kernel, by unfold LowestFree; decide +kernel, by decide +kernel⟩
  simp only [List.mem_cons, List.not_mem_nil, or_false] at h
  rcases h with rfl | rfl | rfl | rfl <;>
    exact ⟨sends_of (by decide +kernel), by unfold ListsChannels; decide +kernel⟩

/-- A list of none and one of nine channels, source 4, capture line 2, a line at OFF, index channel 8, a channel
in OFF, the quota reached, and no FREE slot. -/
theorem witness_SnapArmRefusals :
    (∀ n ∈ ([0, 9] : List Byte), ∀ cs, ¬ ListsChannels (n :: List.replicate 18 0) cs) ∧
    (∀ b ∈ [armBytes 4 0 0 0, armBytes 1 2 0 0, armBytes 1 0 0 0, armBytes 2 8 0 0, armBytes 2 7 0 0, armBytes 0 0 0 0,
      armBytes 3 0 70 0, armBytes 1 1 0 0], ListsChannels b [7]) ∧
    (3 < (byteAt (armBytes 4 0 0 0) 9).toNat ∧ 1 < (byteAt (armBytes 1 2 0 0) 10).toNat ∧
      tget armable.device.capEdge 0 = .off ∧ 7 < (byteAt (armBytes 2 8 0 0) 10).toNat) ∧
    ¬ ((idle.chanSettings 7).mode = .quad ∧ (idle.chanSettings 7).indexQuadrant ≠ none) ∧
    (∀ b ∈ [0 :: List.replicate 18 0, 9 :: List.replicate 18 0, armBytes 4 0 0 0, armBytes 1 2 0 0, armBytes 1 0 0 0,
        armBytes 2 8 0 0, armBytes 2 7 0 0, armBytes 0 0 0 0, armBytes 3 0 70 0, armBytes 1 1 0 0], b.length = 19) ∧
    ((byteAt (armBytes 1 1 0 0) 9 = 1 ∧ tget armable.device.capEdge 1 ≠ .off) ∧
      byteAt (armBytes 2 7 0 0) 9 = 2 ∧ (armable.chanSettings 7).mode = .quad ∧
      (armable.chanSettings 7).indexQuadrant ≠ none) ∧
    (∀ b : List Byte, b.length = 19 → Sends 0x50 b armable ∧ Sends 0x50 b idle ∧
      Sends 0x50 b (idle.setHeldCount 0 6) ∧
      Sends 0x50 b { idle with slots := Vector.replicate 24 ⟨1, some (waiting (.time 70) none)⟩ }) ∧
    (idle.setHeldCount 0 6).device.quota.toNat ≤ (idle.setHeldCount 0 6).heldCount 0 ∧
    ∀ i, ({ idle with slots := Vector.replicate 24 ⟨1, some (waiting (.time 70) none)⟩ }.slot i).body ≠ none := by
  refine ⟨fun n h cs l => ?_, by unfold ListsChannels; decide +kernel, by decide +kernel, by decide +kernel,
    by decide +kernel, by decide +kernel, fun b h => ?_, by decide +kernel, by decide +kernel⟩
  · simp only [List.mem_cons, List.not_mem_nil, or_false] at h
    have small := l.1
    have large := l.2.1
    rcases h with rfl | rfl <;> revert small large <;> decide
  have awaits : ∀ s ∈ [armable, idle, idle.setHeldCount 0 6,
      { idle with slots := Vector.replicate 24 ⟨1, some (waiting (.time 70) none)⟩ }], Awaits s := by decide +kernel
  refine ⟨sends_of ⟨awaits _ (by simp), ?_, ?_⟩, sends_of ⟨awaits _ (by simp), ?_, ?_⟩,
    sends_of ⟨awaits _ (by simp), ?_, ?_⟩, sends_of ⟨awaits _ (by simp), ?_, ?_⟩⟩ <;> rw [h] <;> decide

/-- Slot 23 with an ARMED and with an EXPIRED snapshot of P0, one of P1, and a FREE one. -/
theorem witness_HandlesAreReadAndDiscarded :
    let at23 (b : Option Snapshot) : State := idle.setSlot 23 { generation := 255, body := b }
    let mine := { waiting (.line 0) none with owner := 0 }
    let gone := { mine with phase := .expired .timeout }
    (∀ code ∈ ([0x51, 0x52] : List Byte), ∀ b ∈ [some mine, some gone, some (waiting (.line 0) none), none],
      Sends code [byteOf (23 : SlotIdx).val, 255] (at23 b)) ∧
    ((at23 (some mine)).armedSnap 23 ≠ none ∧ (at23 (some gone)).armedSnap 23 = none ∧
      ((at23 (some gone)).slot 23).body = some gone ∧ ((at23 (some gone)).slot 23).generation = 255) ∧
    ((at23 none).slot 23).body = none ∧
    ((at23 (some (waiting (.line 0) none))).slot 23).generation ≠ 254 := by
  refine ⟨fun code hc b hb => ?_, by decide +kernel⟩
  simp only [List.mem_cons, List.not_mem_nil, or_false] at hc hb
  rcases hc with rfl | rfl <;> rcases hb with rfl | rfl | rfl | rfl <;> exact sends_of (by decide +kernel)

theorem witness_SnapListListsOwnSlots : Sends 0x53 [] armable := sends_of (by decide +kernel)

theorem witness_FetchRemovesOldestNotices :
    (Sends 0x60 [1] idle ∧ 1 ≤ (1 : Byte).toNat) ∧ (Sends 0x60 [4] idle ∧ (4 : Byte).toNat ≤ 4) :=
  ⟨⟨sends_of (by decide +kernel), by decide⟩, sends_of (by decide +kernel), by decide⟩

/-- The first value outside each range. -/
theorem witness_BadArgumentsAreRefused :
    (Sends 0x40 [8] idle ∧ 7 < (byteAt [8] 0).toNat) ∧
    (Sends 0x43 [0, 5] idle ∧ 4 < (byteAt [0, 5] 1).toNat) ∧ Sends 0x43 [0, 0] idle ∧
    (Sends 0x42 (0 :: List.replicate 15 0 ++ [0x80]) idle ∧ 127 < (byteAt (0 :: List.replicate 15 0 ++ [0x80]) 16).toNat) ∧
    (Sends 0x42 (0 :: List.replicate 6 0 ++ [2] ++ List.replicate 9 0) idle) ∧
    (Sends 0x42 (0 :: List.replicate 7 0 ++ [1] ++ List.replicate 8 0) idle ∧
      (wordAt (0 :: List.replicate 7 0 ++ [1] ++ List.replicate 8 0) 12).toInt
        < (wordAt (0 :: List.replicate 7 0 ++ [1] ++ List.replicate 8 0) 8).toInt) ∧
    (Sends 0x60 [5] idle ∧ Sends 0x60 [0] idle) ∧ (Sends 0x24 [0, 0x10] idle ∧ 4096 ≤ (halfAt [0, 0x10] 0).toNat) ∧
    Sends 0x10 [9, 2] idle ∧ Sends 0x11 [9] idle ∧ (Sends 0x51 [24, 0] idle ∧ Sends 0x52 [24, 0] idle) ∧
    (Sends 0x20 (7 :: 5 :: List.replicate 13 0) (owner 7) ∧
      ((owner 7).claim ((7 : Chan).castLE (by decide))).holder = some 0 ∧
      4 < (byteAt (7 :: 5 :: List.replicate 13 0) 1).toNat) ∧
    Sends 0x22 [50, 25, 4, 4, 8] (owner 8) ∧ ((owner 8).claim 8).holder = some 0 := by
  refine ⟨⟨sends_of ?_, ?_⟩, ⟨sends_of ?_, ?_⟩, sends_of ?_, ⟨sends_of ?_, ?_⟩, sends_of ?_, ⟨sends_of ?_, ?_⟩,
    ⟨sends_of ?_, sends_of ?_⟩, ⟨sends_of ?_, ?_⟩, sends_of ?_, sends_of ?_, ⟨sends_of ?_, sends_of ?_⟩,
    ⟨sends_of ?_, ?_⟩, sends_of ?_, ?_⟩ <;> decide +kernel

/-- P0 holds DEV, with P2 and P1 waiting, and owns one slot. -/
def entangled : State :=
  ((State.heldBy idle 8 0 9 [2, 1]).setSlot 0
    { generation := 1, body := some { waiting (.time 70) none with owner := 0 } }).setHeldCount 0 1

theorem witness_PortResetClearsOwnContext : Sends 0x70 [] entangled ∧ HeldInv entangled ∧ ClaimInv entangled :=
  ⟨sends_of (by decide +kernel), by unfold HeldInv; decide +kernel, by unfold ClaimInv; decide +kernel⟩

theorem witness_DeviceResetResetsEveryBlock : Sends 0x71 [] (owner 8) ∧ ((owner 8).claim 8).holder = some 0 :=
  ⟨sends_of (by decide +kernel), by decide +kernel⟩

/-! The invariants hold in states that are not the one after reset, and a step leads on from them. -/

/-- P0 has a notice of a wake kind and its line is LOW. -/
def told : State := (idle.setQueue 0 { Queue.reset with notices := [news .threshold] }).setIntLevel 0 .low

theorem witness_StepKeepsNoticeInv : (∃ t, step told = .next t) ∧ QueueInv told ∧ LineInv told :=
  ⟨⟨_, rfl⟩, by unfold QueueInv; decide +kernel, by unfold LineInv; decide +kernel⟩

theorem witness_StepKeepsClaimInv : ClaimInv entangled ∧ ∃ t, step entangled = .next t :=
  ⟨by unfold ClaimInv; decide +kernel, _, rfl⟩

theorem witness_StepKeepsRingInv : RingInv oneEntry ∧ ∃ t, step oneEntry = .next t :=
  ⟨by unfold RingInv; decide +kernel, _, rfl⟩

theorem witness_StepKeepsHeldInv : HeldInv entangled ∧ ∃ t, step entangled = .next t :=
  ⟨by unfold HeldInv; decide +kernel, _, rfl⟩

/-- A view of P3 with its event delta above its threshold and a window on a QUAD channel. -/
def watching : State :=
  (State.withChan State.reset 0 quadSettings quadEngine).setView 3 0
    { View.fresh 0 0 with
      eventDelta := 4, eventThreshold := 3, eventAbove := true, windowOn := true, low := 1, high := 9
      windowState := some .below }

theorem witness_StepKeepsViewInv : (∃ t, step watching = .next t) ∧ ViewMarksInv watching ∧ WindowInv watching :=
  ⟨⟨_, rfl⟩, by unfold ViewMarksInv; decide +kernel, by unfold WindowInv; decide +kernel⟩

theorem witness_StepKeepsEngineInv :
    EngineInv counting ∧ RingKindInv counting ∧ ∃ t, step counting = .next t := by
  refine ⟨fun c => ?_, ?_, _, rfl⟩
  · refine ⟨?_, ?_⟩
    · fin_cases c <;> exact rfl
    · revert c; decide +kernel
  · unfold RingKindInv; decide +kernel

theorem witness_StepKeepsSnapInv : SnapInv armable ∧ ∃ t, step armable = .next t := by
  refine ⟨fun i sn h => ?_, _, rfl⟩
  have at0 : i = 0 ∧ sn = waiting (.time 70) none := by
    by_cases e : i = 0
    · subst e
      exact ⟨rfl, (Option.some.inj h).symm⟩
    · have free : (armable.slot i).body = none := by
        revert e; clear h; revert i; decide +kernel
      rw [free] at h
      exact absurd h nofun
  rw [at0.2]
  exact ⟨by decide, by decide, by decide, nofun, nofun, nofun, trivial⟩

theorem witness_StepKeepsRangeInv :
    let s := excursion 3 1 .tally
    QuotaInv s ∧ CountInv s ∧ ∃ t, step s = .next t :=
  ⟨by unfold QuotaInv; decide +kernel, by unfold CountInv; decide +kernel, _, rfl⟩

/-- P0 in a frame that presents a response of 128 payload bytes. -/
def presenting : State :=
  State.inFrame (State.reset.setPort 0 { PortIf.reset with
    slot := some { code := .ok, tag := 0, payload := List.replicate 128 0 } }) 0

theorem witness_StepKeepsPortInv :
    (∃ t, step presenting = .next t) ∧ PortInv presenting ∧ SnapInv presenting ∧ RingInv presenting ∧
    ResponseInv presenting := by
  refine ⟨⟨_, rfl⟩, by unfold PortInv; decide +kernel, fun i sn h => ?_, by unfold RingInv; decide +kernel,
    fun p r h => ?_⟩
  · have free : (presenting.slot i).body = none := by
      clear h; revert i; decide +kernel
    rw [free] at h
    exact absurd h nofun
  · have short : ∀ p, ((presenting.port p).slot.all fun r => decide (r.payload.length ≤ 128)) = true := by
      decide +kernel
    have := short p
    rw [h] at this
    simpa using this

end Sys2Proof.Tests
end

section
/-! PROOFS. The measurement ring: what DRAIN answers and where it leaves the cursor (O41). -/

namespace Sys2Proof.Machine

open Sys2Proof

/-! ### A stretch of a list picked by a test -/

/-- A test that holds at the `k` places from place `m` on, and at no other, picks exactly that stretch. -/
theorem filter_eq_take_drop {α : Type} (l : List α) (f : α → Bool) (m k : Nat)
    (h : ∀ i (hi : i < l.length), f l[i] = true ↔ m ≤ i ∧ i < m + k) :
    l.filter f = (l.drop m).take k := by
  have before : (l.take m).filter f = [] := by
    refine List.filter_eq_nil_iff.mpr (List.forall_mem_iff_forall_getElem.mpr fun i hi => ?_)
    rw [List.length_take] at hi
    rw [List.getElem_take, h i (by omega)]
    omega
  have within : ((l.drop m).take k).filter f = (l.drop m).take k := by
    refine List.filter_eq_self.mpr (List.forall_mem_iff_forall_getElem.mpr fun i hi => ?_)
    rw [List.length_take, List.length_drop] at hi
    rw [List.getElem_take, List.getElem_drop, h (m + i) (by omega)]
    omega
  have after : ((l.drop m).drop k).filter f = [] := by
    refine List.filter_eq_nil_iff.mpr (List.forall_mem_iff_forall_getElem.mpr fun i hi => ?_)
    rw [List.length_drop, List.length_drop] at hi
    rw [List.getElem_drop, List.getElem_drop, h (m + (k + i)) (by omega)]
    omega
  calc l.filter f
      = (l.take m ++ ((l.drop m).take k ++ (l.drop m).drop k)).filter f := by
        rw [List.take_append_drop, List.take_append_drop]
    _ = (l.drop m).take k := by
        rw [List.filter_append, List.filter_append, before, within, after, List.append_nil, List.nil_append]

/-! ### Sequence numbers and the cursor (R62, R63) -/

/-- Of the entries of a ring the `i`-th lies within `k` of the cursor, modulo 2^32, exactly when it is one of the
`k` oldest the cursor has not passed: an entry behind the cursor is nearly 2^32 ahead of it. -/
theorem seq_within_iff {seq next cursor : Word} {len i k : Nat} (inside : i < len) (held : len ≤ 16)
    (numbered : seq + BitVec.ofNat 32 (len - i) = next) (reached : (next - cursor).toNat ≤ len)
    (few : k ≤ (next - cursor).toNat) :
    (seq - cursor).toNat < k ↔ len - (next - cursor).toNat ≤ i ∧ i < len - (next - cursor).toNat + k := by
  have ahead : seq - cursor = (next - cursor) - BitVec.ofNat 32 (len - i) := by
    rw [← numbered, add_sub_right_comm, add_sub_cancel_right]
  rw [ahead, BitVec.toNat_sub, BitVec.toNat_ofNat]
  generalize (next - cursor).toNat = unread at *
  omega

/-- The `k` entries from a port's cursor onward are the `k` oldest it has not read (R63, R68). -/
theorem entriesFrom_cursor {s : State} (inv : RingInv s) (p : Port) (c : Chan) {k : Nat}
    (few : k ≤ (s.unread p c).toNat) :
    entriesFrom (s.ring c) (s.view p c).cursor k =
      ((s.ring c).entries.drop ((s.ring c).entries.length - (s.unread p c).toNat)).take k := by
  obtain ⟨held, numbered, reached⟩ := inv c
  refine filter_eq_take_drop _ _ _ _ fun i hi => ?_
  rw [decide_eq_true_iff]
  exact seq_within_iff hi held (numbered i hi) (reached p) few

/-- A cursor moved over `k` unread entries leaves that many fewer unread (R63). -/
theorem unread_setView_cursor {s : State} {p : Port} {c : Chan} {k : Nat} (v : View)
    (moved : v.cursor = (s.view p c).cursor + BitVec.ofNat 32 k) (few : k ≤ (s.unread p c).toNat) :
    (s.setView p c v).unread p c = BitVec.ofNat 32 ((s.unread p c).toNat - k) := by
  have fewer : (s.setView p c v).unread p c = s.unread p c - BitVec.ofNat 32 k := by
    simp only [State.unread, State.setView_ring, State.view_setView_self, moved,
      sub_add_eq_sub_sub]
  rw [fewer]
  bv_omega

theorem setWidth_ofNat_byteOf (n : Nat) : (BitVec.ofNat 32 n).setWidth 8 = byteOf n :=
  BitVec.setWidth_ofNat_of_le (by decide) n

/-- The ring invariant reads the rings and the cursors alone, which the first steps of a frame's end keep. -/
theorem frameEnded_keeps_ringInv {p : Port} {bytes : List Byte} {s : State} (inv : RingInv s) :
    RingInv (frameEnded p bytes s) := inv

/-! ### The channel of a payload (R200) -/

theorem finOf_eq_none {n : Nat} {b : Byte} (h : n ≤ b.toNat) : finOf n b = none := by
  simp [finOf, h]

theorem finOf_byteOf (c : Chan) : finOf 8 (byteOf c.val) = some c := by
  have small : (byteOf c.val).toNat = c.val := byteOf_toNat (by omega)
  simp [finOf, small]

theorem withChannel_above {b : Byte} (h : 7 < b.toNat) (pl : List Byte) (body : Chan → State → State × Reply)
    (s : State) : withChannel (b :: pl) body s = (s, badArgument) := by
  unfold withChannel
  rw [show byteAt (b :: pl) 0 = b from rfl, finOf_eq_none h]

theorem withChannel_chan (c : Chan) (pl : List Byte) (body : Chan → State → State × Reply) (s : State) :
    withChannel (byteOf c.val :: pl) body s = body c s := by
  unfold withChannel
  rw [show byteAt (byteOf c.val :: pl) 0 = byteOf c.val from rfl, finOf_byteOf]

/-! ### DRAIN (R68) -/

theorem drainBody_of_max_refused {max : Byte} (h : max.toNat = 0 ∨ 4 < max.toNat) (p : Port) (b : Byte)
    (c : Chan) (s : State) : drainBody p [b, max] c s = (s, badArgument) := by
  unfold drainBody
  exact if_neg (show ¬ (1 ≤ max.toNat ∧ max.toNat ≤ 4) by omega)

theorem withChannel_drainBody_refused {b max : Byte} (h : 7 < b.toNat ∨ max.toNat = 0 ∨ 4 < max.toNat)
    (p : Port) (s : State) : withChannel [b, max] (drainBody p [b, max]) s = (s, badArgument) := by
  rcases h with above | outside
  · exact withChannel_above above _ _ _
  · unfold withChannel
    split
    · rfl
    · exact drainBody_of_max_refused outside p b _ s

/-- A port's view with its cursor moved over `k` entries and its losses told. -/
def View.drained (v : View) (k : Nat) : View :=
  { v with cursor := v.cursor + BitVec.ofNat 32 k, missed := 0, overrun := false }

theorem drainBody_of_max_accepted {max : Byte} (pos : 1 ≤ max.toNat) (le : max.toNat ≤ 4) (p : Port) (b : Byte)
    (c : Chan) {s : State} (inv : RingInv s) {k : Nat} (hk : k = min max.toNat (s.unread p c).toNat) :
    drainBody p [b, max] c s =
      (s.setView p c ((s.view p c).drained k),
       okReply (le2 (s.view p c).missed ++ [byteOf k, byteOf ((s.unread p c).toNat - k)]
        ++ le4 ((s.view p c).cursor + BitVec.ofNat 32 k)
        ++ (((((s.ring c).entries.drop ((s.ring c).entries.length - (s.unread p c).toNat)).take k).map
            ringEntryBytes).flatten))) := by
  have few : k ≤ (s.unread p c).toNat := by omega
  have left : ((s.setView p c ((s.view p c).drained k)).unread p c).setWidth 8
      = byteOf ((s.unread p c).toNat - k) := by
    rw [unread_setView_cursor _ rfl few, setWidth_ofNat_byteOf]
  have moved : ((s.setView p c ((s.view p c).drained k)).view p c).cursor
      = (s.view p c).cursor + BitVec.ofNat 32 k := by
    rw [State.view_setView_self]; rfl
  have taken : drainBody p [b, max] c s =
      (s.setView p c ((s.view p c).drained k),
       okReply (le2 (s.view p c).missed
        ++ [byteOf k, ((s.setView p c ((s.view p c).drained k)).unread p c).setWidth 8]
        ++ le4 ((s.setView p c ((s.view p c).drained k)).view p c).cursor
        ++ ((entriesFrom (s.ring c) (s.view p c).cursor k).map ringEntryBytes).flatten)) := by
    subst hk
    exact if_pos (show 1 ≤ max.toNat ∧ max.toNat ≤ 4 from ⟨pos, le⟩)
  rw [taken, left, moved, entriesFrom_cursor inv p c few]

theorem exec_drain (p : Port) (rest : List Byte) (s : State) :
    exec (.drain p rest) s =
      .next (commandFrame p 0x43 rest (fun pl => withChannel pl (drainBody p pl)) s) := rfl

/-- Settles O41: a refused DRAIN answers on the state the frame's end leaves; an accepted one returns the entries
that the ring invariant places from the cursor onward. -/
theorem drainReturnsUnreadEntries : Obligations.DrainReturnsUnreadEntries := by
  unfold Obligations.DrainReturnsUnreadEntries
  intro p tagByte max rest s
  constructor
  · intro b sent refused
    rw [exec_drain, commandFrame_dispatched sent, withChannel_drainBody_refused refused]
    rfl
  · intro c sent pos le inv
    refine ⟨_, _, rfl, rfl, ?_⟩
    rw [exec_drain, commandFrame_dispatched sent, withChannel_chan,
      drainBody_of_max_accepted pos le p _ c (frameEnded_keeps_ringInv inv) rfl]
    rfl

end Sys2Proof.Machine
end

section
/-! PROOFS. The claim table: what CLAIM and RELEASE answer and where they leave the resource (O27, O28). -/

namespace Sys2Proof.Machine

open Sys2Proof

/-! ### Argument bytes (R200) -/

/-- The byte of a number below a bound of at most 256 spells that number. -/
theorem finOf_byteOf_val {n : Nat} (bound : n ≤ 256) (i : Fin n) : finOf n (byteOf i.val) = some i := by
  have small : (byteOf i.val).toNat = i.val := byteOf_toNat (by omega)
  simp [finOf, small]

theorem boolOf_yesNo (b : Bool) : boolOf (yesNo b) = some b := by
  cases b <;> rfl

theorem boolOf_eq_none {b : Byte} (h : 1 < b.toNat) : boolOf b = none := by
  have notClear : b ≠ 0 := by rintro rfl; exact absurd h (by decide)
  have notSet : b ≠ 1 := by rintro rfl; exact absurd h (by decide)
  rw [boolOf, if_neg notClear, if_neg notSet]

/-! ### The end of a dispatched frame (R185) -/

/-- A dispatched frame is answered with the reply of its command's run on the state after steps 1 and 2. -/
theorem commandFrame_answers {p : Port} {code tagByte : Byte} {payload rest : List Byte} {s t : State}
    {body : List Byte → State → State × Reply} {answer : RespCode} {data : List Byte}
    (sent : Dispatched p code tagByte payload rest s)
    (ran : body payload (frameEnded p (code :: rest) s) = (t, { code := answer, payload := data })) :
    commandFrame p code rest body s = answered p tagByte answer data t := by
  rw [commandFrame_dispatched sent, ran]

/-! ### Passes (R102) -/

section
variable (r : Resource) (cause : Word) (former : Port) (s : State)

/-- A passed resource is its oldest waiter's, with a lease at full length, or free. -/
theorem pass_claim_self :
    (pass r cause former s).claim r =
      { holder := (s.claim r).waiters.head?
        waiters := (s.claim r).waiters.tail
        leaseDue := if (s.claim r).waiters = [] then none else s.newLease } := by
  rw [pass_claim, if_pos rfl]
  cases hw : (s.claim r).waiters with
  | nil => simp [hw]
  | cons w ws => simp

theorem pass_claim_of_ne {k : Resource} (h : k ≠ r) : (pass r cause former s).claim k = s.claim k := by
  rw [pass_claim, if_neg h.symm]

/-- A pass tells the oldest waiter, and no other port. -/
theorem pass_queue (q : Port) :
    (pass r cause former s).queue q =
      (s.queue q).told ((s.claim r).waiters.head? == some q)
        { kind := .claimGranted, source := .resource r, time := s.now, value := cause,
          aux := BitVec.ofNat 32 former.val } := by
  unfold pass
  dsimp only
  cases hw : (s.claim r).waiters with
  | nil => rfl
  | cons w ws =>
    rw [handNotice_queue, State.setClaim_queue]
    simp [Queue.told]

end

/-! ### CLAIM (R98, R99) -/

section
variable {p : Port} {r : Resource} {wait : Bool} {s : State}

theorem claimResource_of_free (free : (s.claim r).holder = none) :
    claimResource p r wait s =
      (s.setClaim r { s.claim r with holder := some p, leaseDue := s.newLease },
       { code := .granted, payload := [byteOf r.val, s.device.leasePeriod] }) := by
  simp only [claimResource, free]

theorem claimResource_of_holder (held : (s.claim r).holder = some p) :
    claimResource p r wait s =
      (restartLease r s, { code := .held, payload := [byteOf r.val, s.device.leasePeriod] }) := by
  simp only [claimResource, held, if_true]

theorem claimResource_of_waiter {h : Port} (held : (s.claim r).holder = some h) (other : h ≠ p)
    (waits : p ∈ (s.claim r).waiters) :
    claimResource p r wait s =
      (s, { code := .queued
            payload := [byteOf r.val, byteOf h.val, byteOf ((s.claim r).waiters.idxOf p + 1)] }) := by
  simp only [claimResource, held, if_neg other, if_pos waits]

theorem claimResource_joins {h : Port} (held : (s.claim r).holder = some h) (other : h ≠ p)
    (new : p ∉ (s.claim r).waiters) :
    claimResource p r true s =
      (s.setClaim r { s.claim r with waiters := (s.claim r).waiters ++ [p] },
       { code := .queued
         payload := [byteOf r.val, byteOf h.val, byteOf ((s.claim r).waiters.length + 1)] }) := by
  simp only [claimResource, held, if_neg other, if_neg new, if_true]

theorem claimResource_busy {h : Port} (held : (s.claim r).holder = some h) (other : h ≠ p)
    (new : p ∉ (s.claim r).waiters) :
    claimResource p r false s = (s, { code := .busy, payload := [byteOf r.val, byteOf h.val] }) := by
  simp only [claimResource, held, if_neg other, if_neg new, Bool.false_eq_true, if_false]

theorem claimBody_accepted :
    claimBody p [byteOf r.val, yesNo wait] s = claimResource p r wait s := by
  unfold claimBody
  rw [show byteAt [byteOf r.val, yesNo wait] 0 = byteOf r.val from rfl, finOf_byteOf_val (by decide) r,
    show byteAt [byteOf r.val, yesNo wait] 1 = yesNo wait from rfl, boolOf_yesNo]

theorem claimBody_refused {b w : Byte} (h : 8 < b.toNat ∨ 1 < w.toNat) :
    claimBody p [b, w] s = (s, badArgument) := by
  unfold claimBody
  rw [show byteAt [b, w] 0 = b from rfl, show byteAt [b, w] 1 = w from rfl]
  rcases h with above | outside
  · rw [finOf_eq_none above]
  · rw [boolOf_eq_none outside]
    cases finOf 9 b <;> rfl

end

theorem exec_claim (p : Port) (rest : List Byte) (s : State) :
    exec (.claim p rest) s = .next (commandFrame p 0x10 rest (claimBody p) s) := rfl

theorem exec_claim_dispatched {p : Port} {tagByte : Byte} {payload rest : List Byte} {s t : State}
    {code : RespCode} {answer : List Byte} (sent : Dispatched p 0x10 tagByte payload rest s)
    (ran : claimBody p payload (frameEnded p (0x10 :: rest) s) = (t, { code := code, payload := answer })) :
    exec (.claim p rest) s = .next (answered p tagByte code answer t) := by
  rw [exec_claim, commandFrame_answers sent ran]

/-- Settles O27: each situation is a case of `claimResource`, on a claim table that the first steps of the
frame's end have left as it was. -/
theorem claimSituations : Obligations.ClaimSituations := by
  unfold Obligations.ClaimSituations
  intro p tagByte rest s
  refine ⟨fun b w sent refused => exec_claim_dispatched sent (claimBody_refused refused),
    fun r wait sent => ?_⟩
  have answers {t : State} {code : RespCode} {answer : List Byte}
      (ran : claimResource p r wait (frameEnded p (0x10 :: rest) s) = (t, { code := code, payload := answer })) :
      exec (.claim p rest) s = .next (answered p tagByte code answer t) :=
    exec_claim_dispatched sent (claimBody_accepted.trans ran)
  refine ⟨fun free => answers (claimResource_of_free free), fun held => answers (claimResource_of_holder held),
    fun h held other => ⟨fun waits => answers (claimResource_of_waiter held other waits), ?_, ?_⟩⟩
  · rintro new rfl
    exact answers (claimResource_joins held other new)
  · rintro new rfl
    exact answers (claimResource_busy held other new)

/-! ### RELEASE (R101) -/

section
variable {p : Port} {r : Resource} {s : State}

theorem releaseResource_of_holder (held : (s.claim r).holder = some p) :
    releaseResource p r s =
      (pass r 1 p s, okReply [byteOf r.val, portCode (s.claim r).waiters.head?]) := by
  simp only [releaseResource, if_pos held, pass_claim_self]

theorem releaseResource_of_waiter (other : (s.claim r).holder ≠ some p) (waits : p ∈ (s.claim r).waiters) :
    releaseResource p r s =
      (s.setClaim r { s.claim r with waiters := (s.claim r).waiters.filter (fun q => q != p) },
       { code := .withdrawn, payload := [byteOf r.val] }) := by
  simp only [releaseResource, if_neg other, if_pos waits]

theorem releaseResource_not_held (other : (s.claim r).holder ≠ some p) (absent : p ∉ (s.claim r).waiters) :
    releaseResource p r s =
      (s, { code := .notHeld, payload := [byteOf r.val, portCode (s.claim r).holder] }) := by
  simp only [releaseResource, if_neg other, if_neg absent]

theorem releaseBody_accepted : releaseBody p [byteOf r.val] s = releaseResource p r s := by
  unfold releaseBody
  rw [show byteAt [byteOf r.val] 0 = byteOf r.val from rfl, finOf_byteOf_val (by decide) r]

theorem releaseBody_refused {b : Byte} (h : 8 < b.toNat) : releaseBody p [b] s = (s, badArgument) := by
  unfold releaseBody
  rw [show byteAt [b] 0 = b from rfl, finOf_eq_none h]

end

theorem exec_release (p : Port) (rest : List Byte) (s : State) :
    exec (.release p rest) s = .next (commandFrame p 0x11 rest (releaseBody p) s) := rfl

theorem exec_release_dispatched {p : Port} {tagByte : Byte} {payload rest : List Byte} {s t : State}
    {code : RespCode} {answer : List Byte} (sent : Dispatched p 0x11 tagByte payload rest s)
    (ran : releaseBody p payload (frameEnded p (0x11 :: rest) s) = (t, { code := code, payload := answer })) :
    exec (.release p rest) s = .next (answered p tagByte code answer t) := by
  rw [exec_release, commandFrame_answers sent ran]

/-- Settles O28: the holder's RELEASE is the pass of R102, of which `pass_claim_self`, `pass_queue` and
`pass_only` say all; the other situations are the cases of `releaseResource`. -/
theorem releaseSituations : Obligations.ReleaseSituations := by
  unfold Obligations.ReleaseSituations
  intro p tagByte rest s
  refine ⟨fun b sent above => exec_release_dispatched sent (releaseBody_refused above), fun r sent => ?_⟩
  have answers {t : State} {code : RespCode} {answer : List Byte}
      (ran : releaseResource p r (frameEnded p (0x11 :: rest) s) = (t, { code := code, payload := answer })) :
      exec (.release p rest) s = .next (answered p tagByte code answer t) :=
    exec_release_dispatched sent (releaseBody_accepted.trans ran)
  refine ⟨fun held => ?_, fun other waits => answers (releaseResource_of_waiter other waits),
    fun other absent => answers (releaseResource_not_held other absent)⟩
  exact ⟨pass r 1 p (frameEnded p (0x11 :: rest) s), answers (releaseResource_of_holder held),
    pass_claim_self _ _ _ _, fun _ other => pass_claim_of_ne _ _ _ _ other, pass_queue _ _ _ _, pass_only _ _ _ _⟩

end Sys2Proof.Machine
end

section
/-! PROOFS. The settings records: what GET_CHANNEL and GET_DEVICE answer (O33). -/

namespace Sys2Proof.Machine

open Sys2Proof

/-! ### GET_CHANNEL (R128) -/

theorem exec_getChannel (p : Port) (rest : List Byte) (s : State) :
    exec (.getChannel p rest) s =
      .next (commandFrame p 0x21 rest (fun pl => withChannel pl getChannelBody) s) := rfl

/-- The run after steps 1 and 2 of the frame's end leaves their state and reports the record stored before them. -/
theorem getChannelBody_frameEnded (p : Port) (bytes : List Byte) (c : Chan) (s : State) :
    getChannelBody c (frameEnded p bytes s) =
      (frameEnded p bytes s,
       okReply (byteOf c.val :: chanSettingsBytes (s.chanSettings c) ++ le2 (s.engine c).generation)) := by
  have kept := frameEnded_only p bytes s
  rw [getChannelBody, kept.chanSettings_eq (by decide), kept.engine_eq (by decide)]

/-! ### GET_DEVICE (R133) -/

theorem exec_getDevice (p : Port) (rest : List Byte) (s : State) :
    exec (.getDevice p rest) s = .next (commandFrame p 0x23 rest getDeviceBody s) := rfl

theorem getDeviceBody_frameEnded (p : Port) (bytes pl : List Byte) (s : State) :
    getDeviceBody pl (frameEnded p bytes s) =
      (frameEnded p bytes s, okReply (deviceSettingsBytes s.device)) := by
  have kept : (frameEnded p bytes s).device = s.device := frameEnded_only p bytes s .device (by decide)
  rw [getDeviceBody, kept]

/-- Settles O33: each command's run leaves the state it meets, and the first steps of the frame's end leave the
settings and the generation it reports. -/
theorem storedRecordsAreReported : Obligations.StoredRecordsAreReported := by
  unfold Obligations.StoredRecordsAreReported
  intro p tagByte rest s
  refine ⟨fun b sent above => ?_, fun c sent => ?_, fun sent => ?_⟩
  · rw [exec_getChannel, commandFrame_answers sent (withChannel_above above _ _ _)]
  · rw [exec_getChannel, commandFrame_answers sent
      ((withChannel_chan c _ _ _).trans (getChannelBody_frameEnded _ _ c s))]
  · rw [exec_getDevice, commandFrame_answers sent (getDeviceBody_frameEnded _ _ _ s)]
    rfl

end Sys2Proof.Machine
end

section
/-! PROOFS. The snapshot store: what SNAP_LIST answers (O46). -/

namespace Sys2Proof.Machine

open Sys2Proof

/-! ### The slots and the held count of a port (R135, R137) -/

theorem mem_slotsOf {s : State} {p : Port} {i : SlotIdx} :
    i ∈ s.slotsOf p ↔ ∃ sn, (s.slot i).body = some sn ∧ sn.owner = p := by
  simp only [State.slotsOf, ownedBy, List.mem_filter, List.mem_finRange, true_and, Option.any_eq_true,
    beq_iff_eq]

theorem slotsOf_ascending (s : State) (p : Port) : (s.slotsOf p).Pairwise (· < ·) :=
  (List.pairwise_lt_finRange 24).filter _

theorem SameExcept.slotsOf_eq {fs : List Field} {s t : State} (h : SameExcept fs s t) (hf : Field.slots ∉ fs)
    (p : Port) : t.slotsOf p = s.slotsOf p := by
  simp only [State.slotsOf, h.slot_eq hf]

theorem SameExcept.heldCount_eq {fs : List Field} {s t : State} (h : SameExcept fs s t) (hf : Field.held ∉ fs)
    (p : Port) : t.heldCount p = s.heldCount p := by
  have e : t.held = s.held := h .held hf
  simp only [State.heldCount, e]

/-! ### The state code of a slot (R200) -/

section
variable {slot : Slot} {sn : Snapshot}

theorem slotStateCode_of_free (free : slot.body = none) : slotStateCode slot = 0 := by
  simp only [slotStateCode, free]

theorem slotStateCode_of_body (body : slot.body = some sn) : slotStateCode slot = SnapPhase.code sn.phase := by
  simp only [slotStateCode, body]

end

/-! ### SNAP_LIST (R156) -/

theorem exec_snapList (p : Port) (rest : List Byte) (s : State) :
    exec (.snapList p rest) s = .next (commandFrame p 0x53 rest (snapListBody p) s) := rfl

/-- The run after steps 1 and 2 of the frame's end leaves their state and reports the store as it stood before
them. -/
theorem snapListBody_frameEnded (p : Port) (bytes pl : List Byte) (s : State) :
    snapListBody p pl (frameEnded p bytes s) =
      (frameEnded p bytes s,
       okReply ([byteOf (s.heldCount p), s.device.quota, byteOf (s.slotsOf p).length]
        ++ ((s.slotsOf p).map (fun i =>
              [byteOf i.val, (s.slot i).generation, byteOf (slotStateCode (s.slot i))])).flatten)) := by
  have kept := frameEnded_only p bytes s
  have device : (frameEnded p bytes s).device = s.device := kept .device (by decide)
  simp only [snapListBody, device, kept.heldCount_eq (by decide), kept.slotsOf_eq (by decide),
    kept.slot_eq (by decide)]

/-- Settles O46: the listed slots are `slotsOf`, which picks the port's slots out of all slots in their order;
the state byte of each is the code of its phase. -/
theorem snapListListsOwnSlots : Obligations.SnapListListsOwnSlots := by
  unfold Obligations.SnapListListsOwnSlots
  intro p tagByte rest s sent
  refine ⟨s.slotsOf p, slotsOf_ascending s p, fun i => mem_slotsOf, ?_⟩
  rw [exec_snapList, commandFrame_answers sent (snapListBody_frameEnded p _ _ s)]
  congr 5
  funext i
  congr 3
  cases body : (s.slot i).body with
  | none => rw [slotStateCode_of_free body]; rfl
  | some sn =>
    rw [slotStateCode_of_body body]
    obtain ⟨_, _, _, _, _, _, phase⟩ := sn
    cases phase <;> rfl

end Sys2Proof.Machine
end

section
/-! PROOFS. The commands that only answer: PING and IDENTIFY (O26). -/

namespace Sys2Proof.Machine

open Sys2Proof

theorem exec_ping (p : Port) (rest : List Byte) (s : State) :
    exec (.ping p rest) s = .next (commandFrame p 0x01 rest pingBody s) := rfl

theorem exec_identify (p : Port) (rest : List Byte) (s : State) :
    exec (.identify p rest) s = .next (commandFrame p 0x02 rest (identifyBody p) s) := rfl

theorem pingBody_eq (pl : List Byte) (s : State) : pingBody pl s = (s, okReply pl) := rfl

/-- The part number 418 is 0x01A2, low byte first (R199). -/
theorem le2_partNumber : le2 418 = [0xA2, 0x01] := by decide

theorem identifyBody_eq (p : Port) (pl : List Byte) (s : State) :
    identifyBody p pl s = (s, okReply [0x2E, 0xA2, 0x01, 1, 8, 4, byteOf p.val]) := by
  rw [identifyBody, le2_partNumber]
  rfl

/-- Settles O26: either command's run leaves the state after steps 1 and 2 of the frame's end, so all else is the
dispatched frame's own answer. -/
theorem pingAndIdentifyAnswer : Obligations.PingAndIdentifyAnswer := by
  unfold Obligations.PingAndIdentifyAnswer
  intro p tagByte payload rest s
  refine ⟨fun sent => ?ping, fun sent => ?identify⟩
  case ping => rw [exec_ping, commandFrame_answers sent (pingBody_eq payload _)]
  case identify => rw [exec_identify, commandFrame_answers sent (identifyBody_eq p [] _)]

end Sys2Proof.Machine
end

section
/-! PROOFS. What each command's run can write, and the end of a frame said once for all the rows that end one. -/

namespace Sys2Proof.Machine

open Sys2Proof

/-! ### What the runs of the commands leave alone -/

theorem claimResource_only (p : Port) (r : Resource) (wait : Bool) (s : State) :
    SameExcept [.claims] s (claimResource p r wait s).1 := by
  unfold claimResource
  dsimp only
  split
  · exact setClaim_only _ _ _
  · split
    · exact restartLease_only _ _
    · split
      · exact SameExcept.refl _ _
      · split
        · exact setClaim_only _ _ _
        · exact SameExcept.refl _ _

theorem releaseResource_only (p : Port) (r : Resource) (s : State) :
    SameExcept [.claims, .queues, .intLine] s (releaseResource p r s).1 := by
  unfold releaseResource
  dsimp only
  split
  · exact pass_only _ _ _ _
  · split
    · exact (setClaim_only _ _ _).mono (by decide)
    · exact SameExcept.refl _ _

theorem emptyRing_only (c : Chan) (s : State) : SameExcept [.rings, .views] s (emptyRing c s) :=
  (setRing_only _ _ _).andThen (SameExcept.forPorts (fun _ _ => setView_only _ _ _ _) _) (by decide)

theorem reconfigureView_only (c : Chan) (old new : Mode) (unread : Word) (p : Port) (s : State) :
    SameExcept [.views, .queues, .intLine] s (reconfigureView c old new unread p s) := by
  unfold reconfigureView
  dsimp only
  split
  · exact (handNotice_only _ _ _).andThen (setView_only _ _ _ _) (by decide)
  · exact (setView_only _ _ _ _).mono (by decide)

theorem reconfigureSlot_only (c : Chan) (new : ChanSettings) (i : SlotIdx) (s : State) :
    SameExcept [.slots, .queues, .intLine] s (reconfigureSlot c new i s) := by
  unfold reconfigureSlot
  split
  · exact SameExcept.refl _ _
  · split
    · exact expireSlot_only _ _ _ _
    · split
      · exact expireSlot_only _ _ _ _
      · exact (markStale_only _ _ _).mono (by decide)

theorem reconfigure_only (c : Chan) (new : ChanSettings) (s : State) :
    SameExcept [.settings, .lines, .engines, .rings, .views, .slots, .queues, .intLine] s
      (reconfigure c new s) := by
  have settings : SameExcept [.settings, .lines, .engines, .rings, .views, .slots, .queues, .intLine] s
      ((s.setChanSettings c new).setChanLines c (restartChanLines (s.chanLines c))) :=
    (setChanSettings_only _ _ _).andThen (setChanLines_only _ _ _) (by decide)
  exact (((settings.trans ((setEngine_only _ _ _).mono (by decide))).trans
    ((emptyRing_only _ _).mono (by decide))).trans
    ((SameExcept.forPorts (fun p u => reconfigureView_only _ _ _ _ p u) _).mono (by decide))).trans
    ((SameExcept.forSlots (fun i u => reconfigureSlot_only _ _ i u) _).mono (by decide))

theorem tuningChange_only (c : Chan) (new : ChanSettings) (s : State) :
    SameExcept [.settings, .engines, .slots, .queues, .intLine] s (tuningChange c new s) := by
  have stored := (setChanSettings_only s c new).mono
    (gs := [.settings, .engines, .slots, .queues, .intLine]) (by decide)
  unfold tuningChange
  dsimp only
  split
  · split
    · exact (stored.trans ((setEngine_only _ _ _).mono (by decide))).trans
        ((loseIndexSource_only _ _ _).mono (by decide))
    · split
      · exact stored.trans ((setEngine_only _ _ _).mono (by decide))
      · exact stored
  · exact stored

theorem storeChannel_only (c : Chan) (new : ChanSettings) (s : State) :
    SameExcept [.settings, .lines, .engines, .rings, .views, .slots, .queues, .intLine] s
      (storeChannel c new s).1 := by
  unfold storeChannel
  split <;> dsimp only
  · exact reconfigure_only c new s
  · exact (tuningChange_only _ _ _).mono (by decide)

theorem relength_only (r : Resource) (s : State) : SameExcept [.claims] s (relength r s) := by
  unfold relength
  dsimp only
  split
  · exact setClaim_only _ _ _
  · exact SameExcept.refl _ _

theorem restartCap_only (n : CapIdx) (s : State) : SameExcept [.caps] s (restartCap n s) := setCap_only _ _ _

theorem loseLineSource_only (old new : DeviceSettings) (i : SlotIdx) (s : State) :
    SameExcept [.slots, .queues, .intLine] s (loseLineSource old new i s) := by
  unfold loseLineSource
  split
  · split
    · exact expireSlot_only _ _ _ _
    · exact SameExcept.refl _ _
  · exact SameExcept.refl _ _

theorem storeDevice_only (new : DeviceSettings) (s : State) :
    SameExcept [.device, .claims, .slots, .caps, .queues, .intLine] s (storeDevice new s) := by
  have leases : ∀ u, SameExcept [.device, .claims, .slots, .caps, .queues, .intLine] u
      (if s.device.leasePeriod ≠ new.leasePeriod then forResources relength u else u) :=
    fun u => SameExcept.ite ((SameExcept.forResources relength_only u).mono (by decide)) (SameExcept.refl _ _)
  have sources : ∀ u, SameExcept [.device, .claims, .slots, .caps, .queues, .intLine] u
      (forSlots (loseLineSource s.device new) u) :=
    fun u => (SameExcept.forSlots (loseLineSource_only s.device new) u).mono (by decide)
  have counts : ∀ u, SameExcept [.device, .claims, .slots, .caps, .queues, .intLine] u
      (if s.device.lineFilterStep ≠ new.lineFilterStep then restartCap 1 (restartCap 0 u) else u) :=
    fun u => SameExcept.ite (((restartCap_only 0 u).trans (restartCap_only 1 _)).mono (by decide))
      (SameExcept.refl _ _)
  unfold storeDevice
  exact ((((setDevice_only s new).mono (by decide)).trans (leases _)).trans (sources _)).trans (counts _)

theorem evalLine_setWakeSet_only (p : Port) (w : BitVec 12) (s : State) :
    SameExcept [.wake, .intLine] s (evalLine p (s.setWakeSet p w)) :=
  (setWakeSet_only _ _ _).andThen (evalLine_only _ _) (by decide)

theorem presetBody_only (pl : List Byte) (c : Chan) (s : State) :
    SameExcept [.engines, .views, .queues, .intLine] s (presetBody pl c s).1 := by
  unfold presetBody
  dsimp only
  split
  · have moved := setEngine_only s c { s.engine c with position := wordAt pl 1 }
    have cleared := moved.andThen (clearReferenced_only c 2 _) (hs := [.engines, .views, .queues, .intLine])
      (by decide)
    dsimp only
    exact cleared.andThen (positionChange_only c _) (by decide)
  · exact SameExcept.refl _ _

theorem homeBody_only (c : Chan) (s : State) : SameExcept [.engines] s (homeBody c s).1 := by
  unfold homeBody
  dsimp only
  split
  · exact setEngine_only _ _ _
  · exact SameExcept.refl _ _

theorem storeView_only (p : Port) (c : Chan) (w : ViewSettings) (s : State) :
    SameExcept [.views, .queues, .intLine] s (storeView p c w s) := by
  have told : ∀ (b : Bool) (k : NoticeKind) (x y : Word) (u : State),
      SameExcept [.views, .queues, .intLine] u (if b then deliver p c k x y u else u) :=
    fun b k x y u => SameExcept.ite ((deliver_only _ _ _ _ _ _).mono (by decide)) (SameExcept.refl _ _)
  exact ((((setView_only _ _ _ _).mono (by decide)).trans (told _ _ _ _ _)).trans (told _ _ _ _ _)).trans
    ((setView_only _ _ _ _).mono (by decide))

theorem setViewBody_only (p : Port) (pl : List Byte) (c : Chan) (s : State) :
    SameExcept [.views, .queues, .intLine] s (setViewBody p pl c s).1 := by
  unfold setViewBody
  split
  · exact SameExcept.refl _ _
  · exact storeView_only _ _ _ _

theorem drainBody_only (p : Port) (pl : List Byte) (c : Chan) (s : State) :
    SameExcept [.views] s (drainBody p pl c s).1 := by
  unfold drainBody
  dsimp only
  split
  · exact setView_only _ _ _ _
  · exact SameExcept.refl _ _

theorem snapArmBody_only (p : Port) (pl : List Byte) (s : State) :
    SameExcept [.slots, .held, .queues, .intLine] s (snapArmBody p pl s).1 := by
  unfold snapArmBody
  split
  · exact SameExcept.refl _ _
  · exact armSnapshot_only _ _ _ _ _ _

theorem snapReadBody_only (p : Port) (pl : List Byte) (s : State) :
    SameExcept [.slots, .held] s (snapReadBody p pl s).1 := by
  unfold snapReadBody
  split
  · exact SameExcept.refl _ _
  · split
    · exact SameExcept.refl _ _
    · exact freeSlot_only _ _

theorem snapDiscardBody_only (p : Port) (pl : List Byte) (s : State) :
    SameExcept [.slots, .held] s (snapDiscardBody p pl s).1 := by
  unfold snapDiscardBody
  split
  · exact SameExcept.refl _ _
  · exact freeSlot_only _ _

theorem fetchBody_only (p : Port) (pl : List Byte) (s : State) :
    SameExcept [.queues, .intLine] s (fetchBody p pl s).1 := by
  unfold fetchBody
  dsimp only
  split
  · exact (setQueue_only _ _ _).andThen (evalLine_only _ _) (by decide)
  · exact SameExcept.refl _ _

theorem dropHolding_only (p : Port) (r : Resource) (s : State) :
    SameExcept [.claims, .queues, .intLine] s (dropHolding p r s) :=
  SameExcept.ite (pass_only _ _ _ _) (SameExcept.refl _ _)

theorem dropWaiting_only (p : Port) (r : Resource) (s : State) :
    SameExcept [.claims] s (dropWaiting p r s) := setClaim_only _ _ _

theorem dropSlot_only (p : Port) (i : SlotIdx) (s : State) : SameExcept [.slots, .held] s (dropSlot p i s) :=
  SameExcept.ite (freeSlot_only _ _) (SameExcept.refl _ _)

theorem dropView_only (p : Port) (c : Chan) (s : State) : SameExcept [.views] s (dropView p c s) :=
  setView_only _ _ _ _

theorem dropQueue_only (p : Port) (s : State) : SameExcept [.queues, .wake, .intLine] s (dropQueue p s) :=
  ((setQueue_only _ _ _).andThen (setWakeSet_only _ _ _) (hs := [.queues, .wake, .intLine]) (by decide)).trans
    ((setIntLevel_only _ _ _).mono (by decide))

theorem portResetBody_only (p : Port) (pl : List Byte) (s : State) :
    SameExcept [.claims, .slots, .held, .views, .queues, .wake, .intLine] s (portResetBody p pl s).1 :=
  (((((SameExcept.forResources (dropHolding_only p) _).mono (by decide)).trans
    ((SameExcept.forResources (dropWaiting_only p) _).mono (by decide))).trans
    ((SameExcept.forSlots (dropSlot_only p) _).mono (by decide))).trans
    ((SameExcept.forChans (dropView_only p) _).mono (by decide))).trans
    ((dropQueue_only p _).mono (by decide))

theorem deviceResetBody_only (p : Port) (s : State) :
    SameExcept [.now, .lines, .caps, .engines, .rings, .views, .claims, .settings, .device, .wake, .slots,
      .held, .queues, .intLine, .ports] s (deviceResetBody p s).1 := by
  intro f hf
  cases f <;> first | rfl | exact absurd (by decide) hf

theorem gateChannel_only {fs : List Field} {p : Port} {pl : List Byte} {body : Chan → State → State × Reply}
    (h : ∀ c s, SameExcept fs s (body c s).1) (s : State) : SameExcept fs s (gateChannel p pl body s).1 := by
  unfold gateChannel
  split
  · exact SameExcept.refl _ _
  · dsimp only
    split
    · exact h _ _
    · exact SameExcept.refl _ _

theorem gateDev_only {fs : List Field} {p : Port} {body : State → State × Reply}
    (h : ∀ s, SameExcept fs s (body s).1) (s : State) : SameExcept fs s (gateDev p body s).1 := by
  unfold gateDev
  dsimp only
  split
  · exact h _
  · exact SameExcept.refl _ _

theorem withChannel_only {fs : List Field} {pl : List Byte} {body : Chan → State → State × Reply}
    (h : ∀ c s, SameExcept fs s (body c s).1) (s : State) : SameExcept fs s (withChannel pl body s).1 := by
  unfold withChannel
  split
  · exact SameExcept.refl _ _
  · exact h _ _

/-! ### The rows that end a frame (R179, R185, R189) -/

/-- The run of the command that a row carries, given the payload of a frame that passed the checks (R189). -/
def commandBody : Instr → List Byte → State → State × Reply
  | .ping _ _ => pingBody
  | .identify p _ => identifyBody p
  | .claim p _ => claimBody p
  | .release p _ => releaseBody p
  | .setChannel p _ => fun pl => gateChannel p pl (setChannelBody pl)
  | .getChannel _ _ => fun pl => withChannel pl getChannelBody
  | .setDevice p _ => fun pl => gateDev p (setDeviceBody pl)
  | .getDevice _ _ => getDeviceBody
  | .setPort p _ => setPortBody p
  | .preset p _ => fun pl => gateChannel p pl (presetBody pl)
  | .home p _ => fun pl => gateChannel p pl homeBody
  | .homeCancel p _ => fun pl => gateChannel p pl homeCancelBody
  | .readChannel _ _ => fun pl => withChannel pl readChannelBody
  | .take p _ => fun pl => withChannel pl (takeBody p)
  | .peekView p _ => fun pl => withChannel pl (peekViewBody p)
  | .setView p _ => fun pl => withChannel pl (setViewBody p pl)
  | .drain p _ => fun pl => withChannel pl (drainBody p pl)
  | .snapArm p _ => snapArmBody p
  | .snapRead p _ => snapReadBody p
  | .snapDiscard p _ => snapDiscardBody p
  | .snapList p _ => snapListBody p
  | .fetch p _ => fetchBody p
  | .portReset p _ => portResetBody p
  | .deviceReset p _ => fun _ => gateDev p (deviceResetBody p)
  | .unknownCommand _ code _ => fun _ s => (s, { code := .unknownCommand, payload := [code] })
  | _ => fun _ s => (s, badArgument)

/-- A command row runs its command at the end of its frame. -/
theorem exec_commandRow {i : Instr} {p : Port} {code : Byte} {rest : List Byte} (s : State)
    (wf : i.wellFormed = true) (ends : frameOf i = some (p, code :: rest)) (command : code ≠ 0) :
    exec i s = .next (commandFrame p code rest (commandBody i) s) := by
  cases i with
  | readFrame p rest =>
    simp only [frameOf, Option.some.injEq, Prod.mk.injEq, List.cons.injEq] at ends
    exact absurd ends.2.1.symm command
  | unknownCommand p code rest =>
    cases ends
    have unknown : ¬ (code = 0 ∨ isCommandCode code = true) := by
      simpa [Instr.wellFormed, isUnknownCode] using wf
    simp only [exec, execUnknownCommand, if_neg unknown]
    rfl
  | _ => cases ends <;> rfl

/-- Every row that ends a frame does its work at the frame's end. -/
theorem exec_frameRow {i : Instr} {p : Port} {bytes : List Byte} (s : State)
    (wf : i.wellFormed = true) (ends : frameOf i = some (p, bytes)) :
    ∃ work, exec i s = .next (atFrameEnd p bytes work s) := by
  cases bytes with
  | nil =>
    cases i with
    | emptyFrame q => cases ends; exact ⟨_, rfl⟩
    | _ => cases ends
  | cons code rest =>
    by_cases read : code = 0
    · subst read
      cases i with
      | readFrame q rest => cases ends; exact ⟨_, rfl⟩
      | unknownCommand q code rest =>
        simp only [frameOf, Option.some.injEq, Prod.mk.injEq, List.cons.injEq] at ends
        rw [Instr.wellFormed, ends.2.1] at wf
        exact absurd wf (by decide)
      | _ => simp [frameOf] at ends
    · exact ⟨_, exec_commandRow s wf ends read⟩

/-- A row that goes on is well formed: an ill-formed UNKNOWN_COMMAND is refused (log entry 13). -/
theorem wellFormed_of_next {i : Instr} {s t : State} (h : exec i s = .next t) : i.wellFormed = true := by
  cases i with
  | unknownCommand p code rest =>
    simp only [exec, execUnknownCommand] at h
    split at h
    · cases h
    · rename_i unknown
      simpa [Instr.wellFormed, isUnknownCode] using unknown
  | _ => rfl

/-- What the end of a frame can do: nothing, the bare return of an abandoned port, or the frame's work. -/
theorem atFrameEnd_cases (p : Port) (bytes : List Byte) (work : State → State) (s : State) :
    atFrameEnd p bytes work s = s ∨
    (s.running ∧ (s.port p).recv = .abandoned ∧ atFrameEnd p bytes work s = abandonedEnd p s) ∨
    (InFrame p bytes s ∧ atFrameEnd p bytes work s = work s) := by
  unfold atFrameEnd
  split
  · rename_i h
    obtain ⟨run, fresh⟩ := h
    split
    · rename_i recv
      split
      · rename_i received
        exact .inr (.inr ⟨⟨run, recv, fresh, received⟩, rfl⟩)
      · exact .inl rfl
    · exact .inr (.inl ⟨run, ‹_›, rfl⟩)
    · exact .inl rfl
  · exact .inl rfl

theorem atFrameEnd_of_inFrame {p : Port} {bytes : List Byte} {s : State} (h : InFrame p bytes s)
    (work : State → State) : atFrameEnd p bytes work s = work s := by
  obtain ⟨run, recv, fresh, received⟩ := h
  rw [atFrameEnd, if_pos ⟨run, fresh⟩, recv]
  simp only [received, if_true]

/-- A frame that passes the checks has a payload of at most 24 bytes of an accepted length (R186). -/
theorem checkFrame_pass {code : Byte} {rest payload : List Byte} {tag : BitVec 4}
    (h : checkFrame code rest = .pass tag payload) :
    payload.length ≤ 24 ∧ acceptsLength code payload.length = true := by
  unfold checkFrame at h
  dsimp only at h
  split at h
  · cases h
  · cases h
  · split at h
    · cases h
    · rename_i whole
      split at h
      · cases h
      · split at h
        · rename_i accepted
          cases h
          rw [List.length_take, Nat.min_eq_left (by omega)]
          exact ⟨by omega, accepted⟩
        · cases h

/-- What the checks, the dispatch and the activity of a command frame can do (R186, R188, R189, R191). -/
theorem runCommand_cases (p : Port) (code : Byte) (rest : List Byte)
    (body : List Byte → State → State × Reply) (s : State) :
    (∃ tag r, r.payload.length ≤ 3 ∧ runCommand p code rest body s = place p tag r s) ∨
    runCommand p code rest body s = collide p s ∨
    runCommand p code rest body s = activity p (collide p s) ∨
    ∃ tag payload, payload.length ≤ 24 ∧ acceptsLength code payload.length = true ∧
      runCommand p code rest body s = activity p (place p tag (body payload s).2 (body payload s).1) := by
  unfold runCommand
  cases check : checkFrame code rest with
  | fail tag r =>
    dsimp only
    split
    · exact .inr (.inl rfl)
    · refine .inl ⟨tag, r, ?_, rfl⟩
      unfold checkFrame at check
      dsimp only at check
      split at check
      · cases check; exact le_refl 3
      · cases check; exact le_refl 3
      · split at check
        · cases check; exact le_refl 3
        · split at check
          · cases check; simp
          · split at check
            · cases check
            · cases check; exact le_refl 3
  | pass tag payload =>
    dsimp only
    split
    · exact .inr (.inr (.inl rfl))
    · obtain ⟨len, accepted⟩ := checkFrame_pass check
      exact .inr (.inr (.inr ⟨tag, payload, len, accepted, rfl⟩))

end Sys2Proof.Machine
end

section
/-! PROOFS. What a step can do, said once: it is a chain of moves, each an operation of the model under the
conditions in which a step performs it. An invariant that every move keeps, every step keeps. -/

namespace Sys2Proof.Machine

open Sys2Proof

/-! ### The moves -/

/-- The fields that the blocks behind the ports hold, with those that a device reset writes beside them. -/
abbrev blockFields : List Field :=
  [.now, .lines, .caps, .engines, .rings, .views, .claims, .settings, .device, .wake, .slots, .held, .queues,
    .intLine, .ports]

/-- One operation of a step, with the fields it can write and the conditions in which a step performs it. -/
inductive Move : List Field → State → State → Prop
  | queued {s t : State} (only : SameExcept [.pending, .freeCount] s t) : Move [.pending, .freeCount] s t
  | advance (s : State) (paid : s.owed = []) :
      Move [.phase, .resetLow, .resetWire, .now, .lines, .caps, .ports, .wires] s (advance s)
  | startReset (s : State) (phase : ResetPhase) (begins : phase = .powerOnInterval 0 ∨ phase = .pinHeld) :
      Move (.phase :: blockFields) s (startReset phase s)
  | holdReset (s : State) (elapsed : Nat) (interval : s.phase = .powerOnInterval elapsed) :
      Move [.phase] s { s with phase := .pinHeld }
  | endReset (s : State) (pins : PinLevels) (reset : ¬ s.running) :
      Move [.phase, .now, .lines, .caps, .ports] s (endReset pins s)
  | sample (s : State) (u : Sample) (run : s.running) :
      Move [.lines, .caps, .engines, .rings, .views, .slots, .queues, .intLine] s (takeSample u s)
  | overrange (s : State) (c : Chan) :
      Move [.engines, .rings, .views, .queues, .intLine] s (overrangeEnd c s)
  | leaseEnd (s : State) (r : Resource) : Move [.claims, .queues, .intLine] s (expireLease r s)
  | limitEnd (s : State) (i : SlotIdx) : Move [.slots, .queues, .intLine] s (expireSlot .timeout 0 i s)
  | target (s : State) (t : Tick) : Move [.slots, .queues, .intLine] s (captureEvent (.target t) s)
  | frameStart (s : State) (p : Port) (run : s.running) : Move [.ports] s (startFrame p s)
  | frameEnd (s : State) (p : Port) (bytes : List Byte) : Move [.ports] s (frameEnded p bytes s)
  | emptyEnd (s : State) (p : Port) :
      Move [.ports] s (s.setPort p { s.port p with recv := .idle, selSampled := true, bits := [], shifted := 0 })
  | abandonedEnd (s : State) (p : Port) : Move [.ports] s (abandonedEnd p s)
  | place (s : State) (p : Port) (tag : BitVec 4) (r : Reply) (idle : (s.port p).recv = .idle) :
      Move [.ports] s (place p tag r s)
  | collide (s : State) (p : Port) : Move [.ports] s (collide p s)
  | activity (s : State) (p : Port) : Move [.claims, .freeCount] s (activity p s)
  | claim (s : State) (p : Port) (r : Resource) (wait : Bool) : Move [.claims] s (claimResource p r wait s).1
  | release (s : State) (p : Port) (r : Resource) :
      Move [.claims, .queues, .intLine] s (releaseResource p r s).1
  | setChannel (s : State) (c : Chan) (new : ChanSettings) (run : s.running) :
      Move [.settings, .lines, .engines, .rings, .views, .slots, .queues, .intLine] s (storeChannel c new s).1
  | setDevice (s : State) (pl : List Byte) (new : DeviceSettings) (record : deviceSettingsAt pl 0 = some new) :
      Move [.device, .claims, .slots, .caps, .queues, .intLine] s (storeDevice new s)
  | setPort (s : State) (p : Port) (w : BitVec 12) : Move [.wake, .intLine] s (evalLine p (s.setWakeSet p w))
  | preset (s : State) (pl : List Byte) (c : Chan) :
      Move [.engines, .views, .queues, .intLine] s (presetBody pl c s).1
  | home (s : State) (c : Chan) : Move [.engines] s (homeBody c s).1
  | homeCancel (s : State) (c : Chan) : Move [.engines] s (homeCancelBody c s).1
  | take (s : State) (p : Port) (c : Chan) : Move [.views] s (takeBody p c s).1
  | setView (s : State) (p : Port) (c : Chan) (w : ViewSettings) :
      Move [.views, .queues, .intLine] s (storeView p c w s)
  | drain (s : State) (p : Port) (pl : List Byte) (c : Chan) : Move [.views] s (drainBody p pl c s).1
  | arm (s : State) (p : Port) (pl : List Byte) (cs : List Chan) (src : SnapSource) (limit : Half) (i : SlotIdx)
      (len : pl.length = 19) (passed : snapArmCheck p pl s = .ok (cs, src, i)) :
      Move [.slots, .held, .queues, .intLine] s (armSnapshot p cs src limit i s)
  | free (s : State) (i : SlotIdx) : Move [.slots, .held] s (freeSlot i s)
  | fetch (s : State) (p : Port) (pl : List Byte) : Move [.queues, .intLine] s (fetchBody p pl s).1
  | portReset (s : State) (p : Port) (pl : List Byte) :
      Move [.claims, .slots, .held, .views, .queues, .wake, .intLine] s (portResetBody p pl s).1
  | deviceReset (s : State) (p : Port) (idle : (s.port p).recv = .idle) :
      Move blockFields s (deviceResetBody p s).1

theorem startReset_only (phase : ResetPhase) (s : State) :
    SameExcept (.phase :: blockFields) s (startReset phase s) := by
  intro f hf
  cases f <;> first | rfl | exact absurd (by decide) hf

theorem endReset_only (pins : PinLevels) (s : State) :
    SameExcept [.phase, .now, .lines, .caps, .ports] s (endReset pins s) := by
  intro f hf
  cases f <;> first | rfl | exact absurd (by decide) hf

theorem setPhase_only (phase : ResetPhase) (s : State) : SameExcept [.phase] s { s with phase := phase } := by
  intro f hf
  cases f <;> first | rfl | exact absurd (by decide) hf

/-- A move writes no field but those it lists. -/
theorem Move.only {fs : List Field} {s t : State} (m : Move fs s t) : SameExcept fs s t := by
  cases m with
  | queued only => exact only
  | advance => exact advance_only s
  | startReset => exact startReset_only _ _
  | holdReset => exact setPhase_only _ _
  | endReset => exact endReset_only _ _
  | sample => exact takeSample_only _ _
  | overrange => exact overrangeEnd_only _ _
  | leaseEnd => exact expireLease_only _ _
  | limitEnd => exact expireSlot_only _ _ _ _
  | target => exact captureEvent_only _ _
  | frameStart | frameEnd | emptyEnd | abandonedEnd | place | collide => exact setPort_only _ _ _
  | activity => exact activity_only _ _
  | claim => exact claimResource_only _ _ _ _
  | release => exact releaseResource_only _ _ _
  | setChannel => exact storeChannel_only _ _ _
  | setDevice => exact storeDevice_only _ _
  | setPort => exact evalLine_setWakeSet_only _ _ _
  | preset => exact presetBody_only _ _ _
  | home => exact homeBody_only _ _
  | homeCancel => exact setEngine_only _ _ _
  | take => exact setView_only _ _ _ _
  | setView => exact storeView_only _ _ _ _
  | drain => exact drainBody_only _ _ _ _
  | arm => exact armSnapshot_only _ _ _ _ _ _
  | free => exact freeSlot_only _ _
  | fetch => exact fetchBody_only _ _ _
  | portReset => exact portResetBody_only _ _ _
  | deviceReset => exact deviceResetBody_only _ _

/-! ### Chains of moves -/

/-- A chain of moves. -/
def Moves : State → State → Prop := Relation.ReflTransGen fun s t => ∃ fs, Move fs s t

namespace Moves

theorem refl (s : State) : Moves s s := Relation.ReflTransGen.refl

theorem one {fs : List Field} {s t : State} (m : Move fs s t) : Moves s t :=
  Relation.ReflTransGen.single ⟨fs, m⟩

theorem trans {s t u : State} (h : Moves s t) (k : Moves t u) : Moves s u := Relation.ReflTransGen.trans h k

theorem andThen {fs : List Field} {s t u : State} (h : Moves s t) (m : Move fs t u) : Moves s u :=
  h.trans (one m)

/-- What every move keeps, every chain of moves keeps. -/
theorem keeps {Inv : State → Prop} (each : ∀ {fs s t}, Move fs s t → Inv s → Inv t) {s t : State}
    (h : Moves s t) (inv : Inv s) : Inv t := by
  induction h with
  | refl => exact inv
  | tail _ m ih => exact each m.choose_spec ih

end Moves

/-! ### The runs of the commands -/

theorem gateChannel_moves {p : Port} {pl : List Byte} {body : Chan → State → State × Reply} {s : State}
    (h : ∀ c, Moves s (body c s).1) : Moves s (gateChannel p pl body s).1 := by
  unfold gateChannel
  split
  · exact Moves.refl s
  · dsimp only
    split
    · exact h _
    · exact Moves.refl s

theorem gateDev_moves {p : Port} {body : State → State × Reply} {s : State} (h : Moves s (body s).1) :
    Moves s (gateDev p body s).1 := by
  unfold gateDev
  dsimp only
  split
  · exact h
  · exact Moves.refl s

theorem withChannel_moves {pl : List Byte} {body : Chan → State → State × Reply} {s : State}
    (h : ∀ c, Moves s (body c s).1) : Moves s (withChannel pl body s).1 := by
  unfold withChannel
  split
  · exact Moves.refl s
  · exact h _

/-- The run of a command, with a payload of a length that it accepts, is a chain of moves. -/
theorem commandBody_moves {i : Instr} {p : Port} {code : Byte} {rest pl : List Byte}
    (ends : frameOf i = some (p, code :: rest)) (accepted : acceptsLength code pl.length = true) {s : State}
    (run : s.running) (idle : (s.port p).recv = .idle) : Moves s (commandBody i pl s).1 := by
  cases i with
  | claim p rest =>
    show Moves s (claimBody p pl s).1
    unfold claimBody
    split
    · exact .one (.claim s p _ _)
    · exact .refl s
  | release p rest =>
    show Moves s (releaseBody p pl s).1
    unfold releaseBody
    split
    · exact .one (.release s p _)
    · exact .refl s
  | setChannel p rest =>
    refine gateChannel_moves fun c => ?_
    unfold setChannelBody
    split
    · exact .one (.setChannel s c _ run)
    · exact .refl s
  | getChannel => exact withChannel_moves fun c => .refl s
  | setDevice p rest =>
    refine gateDev_moves ?_
    unfold setDeviceBody
    split
    · exact .one (.setDevice s pl _ ‹_›)
    · exact .refl s
  | setPort p rest =>
    show Moves s (setPortBody p pl s).1
    unfold setPortBody
    dsimp only
    split
    · exact .one (.setPort s p _)
    · exact .refl s
  | preset => exact gateChannel_moves fun c => .one (.preset s pl c)
  | home => exact gateChannel_moves fun c => .one (.home s c)
  | homeCancel => exact gateChannel_moves fun c => .one (.homeCancel s c)
  | readChannel => exact withChannel_moves fun c => .refl s
  | take p => exact withChannel_moves fun c => .one (.take s p c)
  | peekView => exact withChannel_moves fun c => .refl s
  | setView p rest =>
    refine withChannel_moves fun c => ?_
    unfold setViewBody
    split
    · exact .refl s
    · exact .one (.setView s p c _)
  | drain p => exact withChannel_moves fun c => .one (.drain s p pl c)
  | snapArm p rest =>
    cases ends
    have len : pl.length = 19 := by simpa [acceptsLength] using accepted
    show Moves s (snapArmBody p pl s).1
    unfold snapArmBody
    split
    · exact .refl s
    · exact .one (.arm s p pl _ _ _ _ len ‹_›)
  | snapRead p rest =>
    show Moves s (snapReadBody p pl s).1
    unfold snapReadBody
    split
    · exact .refl s
    · split
      · exact .refl s
      · exact .one (.free s _)
  | snapDiscard p rest =>
    show Moves s (snapDiscardBody p pl s).1
    unfold snapDiscardBody
    split
    · exact .refl s
    · exact .one (.free s _)
  | fetch p => exact .one (.fetch s p pl)
  | portReset p => exact .one (.portReset s p pl)
  | deviceReset p =>
    cases ends
    exact gateDev_moves (.one (.deviceReset s p idle))
  | _ => exact .refl s

/-- What a command's run may write. -/
def commandFields : Instr → List Field
  | .claim _ _ => [.claims]
  | .release _ _ => [.claims, .queues, .intLine]
  | .setChannel _ _ => [.settings, .lines, .engines, .rings, .views, .slots, .queues, .intLine]
  | .setDevice _ _ => [.device, .claims, .slots, .caps, .queues, .intLine]
  | .setPort _ _ => [.wake, .intLine]
  | .preset _ _ => [.engines, .views, .queues, .intLine]
  | .home _ _ => [.engines]
  | .homeCancel _ _ => [.engines]
  | .take _ _ => [.views]
  | .setView _ _ => [.views, .queues, .intLine]
  | .drain _ _ => [.views]
  | .snapArm _ _ => [.slots, .held, .queues, .intLine]
  | .snapRead _ _ => [.slots, .held]
  | .snapDiscard _ _ => [.slots, .held]
  | .fetch _ _ => [.queues, .intLine]
  | .portReset _ _ => [.claims, .slots, .held, .views, .queues, .wake, .intLine]
  | .deviceReset _ _ => blockFields
  | _ => []

theorem commandBody_fields (i : Instr) (pl : List Byte) (s : State) :
    SameExcept (commandFields i) s (commandBody i pl s).1 := by
  cases i with
  | claim p rest =>
    show SameExcept _ s (claimBody p pl s).1
    unfold claimBody
    split
    · exact claimResource_only _ _ _ _
    · exact .refl _ s
  | release p rest =>
    show SameExcept _ s (releaseBody p pl s).1
    unfold releaseBody
    split
    · exact releaseResource_only _ _ _
    · exact .refl _ s
  | setChannel p rest =>
    refine gateChannel_only (fun c u => ?_) s
    unfold setChannelBody
    split
    · exact storeChannel_only _ _ _
    · exact .refl _ u
  | getChannel => exact withChannel_only (fun c u => .refl _ u) s
  | setDevice p rest =>
    refine gateDev_only (fun u => ?_) s
    unfold setDeviceBody
    split
    · exact storeDevice_only _ _
    · exact .refl _ u
  | setPort p rest =>
    show SameExcept _ s (setPortBody p pl s).1
    unfold setPortBody
    dsimp only
    split
    · exact evalLine_setWakeSet_only _ _ _
    · exact .refl _ s
  | preset => exact gateChannel_only (fun c u => presetBody_only _ c u) s
  | home => exact gateChannel_only (fun c u => homeBody_only c u) s
  | homeCancel => exact gateChannel_only (fun c u => setEngine_only _ _ _) s
  | readChannel => exact withChannel_only (fun c u => .refl _ u) s
  | take => exact withChannel_only (fun c u => setView_only _ _ _ _) s
  | peekView => exact withChannel_only (fun c u => .refl _ u) s
  | setView => exact withChannel_only (fun c u => setViewBody_only _ _ c u) s
  | drain => exact withChannel_only (fun c u => drainBody_only _ _ c u) s
  | snapArm p => exact snapArmBody_only p pl s
  | snapRead p => exact snapReadBody_only p pl s
  | snapDiscard p => exact snapDiscardBody_only p pl s
  | fetch p => exact fetchBody_only p pl s
  | portReset p => exact portResetBody_only p pl s
  | deviceReset p rest => exact gateDev_only (fun u => deviceResetBody_only p u) s
  | _ => exact .refl _ s

/-- A command's run writes no port, but for DEVICE_RESET, and never the phase, the samples of RESET, the wires, the
queue or the counter of the free values. -/
theorem commandBody_only (i : Instr) (pl : List Byte) (s : State) :
    SameExcept blockFields s (commandBody i pl s).1 ∧
    ((∀ p rest, i ≠ .deviceReset p rest) → (commandBody i pl s).1.ports = s.ports) := by
  refine ⟨(commandBody_fields i pl s).mono ?_, fun other => commandBody_fields i pl s .ports ?_⟩
  · unfold commandFields
    split <;> decide
  · unfold commandFields
    split
    case h_17 p rest => exact absurd rfl (other p rest)
    all_goals decide

/-- A command's run leaves the receiver state of the port whose frame carried it. -/
theorem commandBody_recv {i : Instr} {p : Port} {bytes : List Byte} (ends : frameOf i = some (p, bytes))
    (pl : List Byte) (s : State) : ((commandBody i pl s).1.port p).recv = (s.port p).recv := by
  by_cases reset : ∃ q rest, i = .deviceReset q rest
  · obtain ⟨q, rest, rfl⟩ := reset
    cases ends
    show ((gateDev p (deviceResetBody p) s).1.port p).recv = _
    unfold gateDev
    dsimp only
    split
    · simp [deviceResetBody, State.port, settleLines, resetBlocks, resetIssuer]
    · rfl
  · have ports := (commandBody_only i pl s).2 fun q rest e => reset ⟨q, rest, e⟩
    simp only [State.port, ports]

/-! ### The rows and the step -/

theorem commandFrame_moves {i : Instr} {p : Port} {code : Byte} {rest : List Byte}
    (ends : frameOf i = some (p, code :: rest)) (s : State) :
    Moves s (commandFrame p code rest (commandBody i) s) := by
  rcases atFrameEnd_cases p (code :: rest)
      (fun s => runCommand p code rest (commandBody i) (frameEnded p (code :: rest) s)) s with
    h | ⟨-, -, h⟩ | ⟨sent, h⟩
  · rw [commandFrame, h]
    exact .refl s
  · rw [commandFrame, h]
    exact .one (.abandonedEnd s p)
  · rw [commandFrame, h]
    have ended : Moves s (frameEnded p (code :: rest) s) := .one (.frameEnd s p _)
    have idle : ((frameEnded p (code :: rest) s).port p).recv = .idle := by
      rw [frameEnded, State.port_setPort_self]; rfl
    rcases runCommand_cases p code rest (commandBody i) (frameEnded p (code :: rest) s) with
      ⟨tag, r, -, k⟩ | k | k | ⟨tag, pl, -, accepted, k⟩
    · rw [k]
      exact ended.andThen (.place _ p tag r idle)
    · rw [k]
      exact ended.andThen (.collide _ p)
    · rw [k]
      exact (ended.andThen (.collide _ p)).andThen (.activity _ p)
    · rw [k]
      have ran := ended.trans (commandBody_moves ends accepted (s := frameEnded p (code :: rest) s) sent.running idle)
      exact (ran.andThen (.place _ p tag _ ((commandBody_recv ends pl _).trans idle))).andThen (.activity _ p)

/-- A row that goes on is a chain of moves. -/
theorem exec_moves {i : Instr} {s t : State} (h : exec i s = .next t) : Moves s t := by
  have wf := wellFormed_of_next h
  have command {p : Port} {code : Byte} {rest : List Byte} (ends : frameOf i = some (p, code :: rest))
      (ne : code ≠ 0) : Moves s t := by
    rw [exec_commandRow s wf ends ne] at h
    cases h
    exact commandFrame_moves ends s
  cases i with
  | powerOn => cases h; exact .one (.startReset s _ (.inl rfl))
  | powerOnIntervalEnd pin pins =>
    simp only [exec, execPowerOnIntervalEnd, Host.Outcome.next.injEq] at h
    subst h
    split
    · rename_i elapsed interval
      split
      · exact .refl s
      · split
        · exact .one (.endReset s pins (by rw [State.running, interval]; simp))
        · exact .one (.holdReset s elapsed interval)
    · exact .refl s
  | resetPinAssert =>
    simp only [exec, execResetPinAssert, Host.Outcome.next.injEq] at h
    subst h
    split
    · exact .one (.startReset s _ (.inr rfl))
    · exact .refl s
  | resetPinRelease pins =>
    simp only [exec, execResetPinRelease, Host.Outcome.next.injEq] at h
    subst h
    split
    · rename_i held
      exact .one (.endReset s pins (by rw [State.running, held.1]; simp))
    · exact .refl s
  | lineSample u =>
    simp only [exec, execLineSample, Host.Outcome.next.injEq] at h
    subst h
    split
    · exact .one (.sample s u (‹_ ∧ _›).1)
    · exact .refl s
  | filteredEdge u =>
    simp only [exec, execFilteredEdge, Host.Outcome.next.injEq] at h
    subst h
    split
    · exact .one (.sample s u (‹_ ∧ _›).1)
    · exact .refl s
  | overrangeExpiry c =>
    simp only [exec, execOverrangeExpiry, Host.Outcome.next.injEq] at h
    subst h
    split
    · exact .one (.overrange s c)
    · exact .refl s
  | leaseExpiry r =>
    simp only [exec, execLeaseExpiry, Host.Outcome.next.injEq] at h
    subst h
    split
    · exact .one (.leaseEnd s r)
    · exact .refl s
  | armLimitExpiry j =>
    simp only [exec, execArmLimitExpiry, Host.Outcome.next.injEq] at h
    subst h
    split
    · exact .one (.limitEnd s j)
    · exact .refl s
  | timeTargetReached at' =>
    simp only [exec, execTimeTargetReached, Host.Outcome.next.injEq] at h
    subst h
    split
    · exact .one (.target s _)
    · exact .refl s
  | frameStart p =>
    simp only [exec, execFrameStart, Host.Outcome.next.injEq] at h
    subst h
    split
    · exact .one (.frameStart s p (‹_ ∧ _›).1)
    · exact .refl s
  | emptyFrame p =>
    simp only [exec, execEmptyFrame, Host.Outcome.next.injEq] at h
    subst h
    rcases atFrameEnd_cases p [] (fun s => s.setPort p
        { s.port p with recv := .idle, selSampled := true, bits := [], shifted := 0 }) s with
      e | ⟨-, -, e⟩ | ⟨-, e⟩
    · rw [e]; exact .refl s
    · rw [e]; exact .one (.abandonedEnd s p)
    · rw [e]; exact .one (.emptyEnd s p)
  | abandonedFrameEnd p =>
    simp only [exec, execAbandonedFrameEnd, Host.Outcome.next.injEq] at h
    subst h
    split
    · exact .one (.abandonedEnd s p)
    · exact .refl s
  | readFrame p rest =>
    simp only [exec, execReadFrame, readFrameEnd, Host.Outcome.next.injEq] at h
    subst h
    rcases atFrameEnd_cases p (0 :: rest) (fun s => activity p (frameEnded p (0 :: rest) s)) s with
      e | ⟨-, -, e⟩ | ⟨-, e⟩
    · rw [e]; exact .refl s
    · rw [e]; exact .one (.abandonedEnd s p)
    · rw [e]; exact (Moves.one (.frameEnd s p _)).andThen (.activity _ p)
  | unknownCommand p code rest =>
    refine command rfl ?_
    rintro rfl
    exact absurd (show isUnknownCode 0 = true from wf) (by decide)
  | _ => exact command rfl (by decide)

/-- A step that goes on is a chain of moves: the row at the front of the queue, or what time brings. -/
theorem step_moves {s t : State} (h : step s = .next t) : Moves s t := by
  cases queue : s.pending with
  | nil =>
    rcases step_of_empty_queue queue with ⟨-, k⟩ | ⟨paid, k⟩
    · cases h.symm.trans k
      exact .one (.queued (enqueue_only s _))
    · cases h.symm.trans k
      exact .one (.advance s paid)
  | cons i rest =>
    have dequeued : SameExcept [.pending, .freeCount] s { s with pending := rest } := by
      intro f hf
      cases f <;> first | rfl | exact absurd (by decide) hf
    simp only [step, queue] at h
    exact (Moves.one (.queued dequeued)).trans (exec_moves h)

end Sys2Proof.Machine
end

section
/-! PROOFS. Notices: every step keeps the law of the notice queues and of the interrupt lines (O52). -/

namespace Sys2Proof.Machine

open Sys2Proof

/-! ### What one action for each port, slot, resource or channel keeps -/

section
variable {P : State → Prop}

theorem foldl_keeps {α : Type} {f : α → State → State} (h : ∀ a s, P s → P (f a s)) (l : List α) {s : State}
    (inv : P s) : P (l.foldl (fun s a => f a s) s) := by
  induction l generalizing s with
  | nil => exact inv
  | cons a l ih => exact ih (h a s inv)

theorem forPorts_keeps {f : Port → State → State} (h : ∀ p s, P s → P (f p s)) {s : State} (inv : P s) :
    P (forPorts f s) := h 3 _ (h 2 _ (h 1 _ (h 0 _ inv)))

theorem forSlots_keeps {f : SlotIdx → State → State} (h : ∀ i s, P s → P (f i s)) {s : State} (inv : P s) :
    P (forSlots f s) := foldl_keeps h _ inv

theorem forResources_keeps {f : Resource → State → State} (h : ∀ r s, P s → P (f r s)) {s : State} (inv : P s) :
    P (forResources f s) := foldl_keeps h _ inv

theorem forChans_keeps {f : Chan → State → State} (h : ∀ c s, P s → P (f c s)) {s : State} (inv : P s) :
    P (forChans f s) := foldl_keeps h _ inv

theorem ite_keeps {c : Prop} [Decidable c] {s t : State} (yes : c → P s) (no : ¬ c → P t) :
    P (if c then s else t) := by
  split
  · exact yes ‹_›
  · exact no ‹_›

end

/-! ### A law that the handing of a notice keeps -/

/-- A law of the queues, the wake sets and the interrupt lines that the handing of any notice keeps. -/
structure KeptByNotices (P : State → Prop) : Prop where
  frame : ∀ {fs : List Field} {s t : State}, SameExcept fs s t → Field.queues ∉ fs → Field.intLine ∉ fs →
    Field.wake ∉ fs → P s → P t
  hand : ∀ (p : Port) (n : Notice) {s : State}, P s → P (handNotice p n s)

namespace KeptByNotices

variable {P : State → Prop} (k : KeptByNotices P)
include k

theorem setEngine (c : Chan) (x : Engine) {s : State} (inv : P s) : P (s.setEngine c x) :=
  k.frame (setEngine_only s c x) (by decide) (by decide) (by decide) inv

theorem setView (p : Port) (c : Chan) (x : View) {s : State} (inv : P s) : P (s.setView p c x) :=
  k.frame (setView_only s p c x) (by decide) (by decide) (by decide) inv

theorem setRing (c : Chan) (x : Ring) {s : State} (inv : P s) : P (s.setRing c x) :=
  k.frame (setRing_only s c x) (by decide) (by decide) (by decide) inv

theorem setSlot (i : SlotIdx) (x : Slot) {s : State} (inv : P s) : P (s.setSlot i x) :=
  k.frame (setSlot_only s i x) (by decide) (by decide) (by decide) inv

theorem setClaim (r : Resource) (x : Claim) {s : State} (inv : P s) : P (s.setClaim r x) :=
  k.frame (setClaim_only s r x) (by decide) (by decide) (by decide) inv

theorem deliver (p : Port) (c : Chan) (kind : NoticeKind) (value aux : Word) {s : State} (inv : P s) :
    P (deliver p c kind value aux s) :=
  ite_keeps (fun _ => k.hand p _ inv) fun _ => inv

theorem countPrimary (c : Chan) (p : Port) {s : State} (inv : P s) : P (countPrimary c p s) :=
  ite_keeps (fun _ => k.setView p c _ inv) fun _ =>
    ite_keeps (fun _ => k.deliver p c _ _ _ (k.setView p c _ inv)) fun _ => k.setView p c _ inv

theorem primaryEvent (c : Chan) {s : State} (inv : P s) : P (primaryEvent c s) :=
  forPorts_keeps (fun p _ => k.countPrimary c p) inv

theorem countFault (c : Chan) (p : Port) {s : State} (inv : P s) : P (countFault c p s) :=
  ite_keeps (fun _ => k.setView p c _ inv) fun _ =>
    ite_keeps (fun _ => k.deliver p c _ _ _ (k.setView p c _ inv)) fun _ => k.setView p c _ inv

theorem faultEvent (c : Chan) {s : State} (inv : P s) : P (faultEvent c s) := by
  unfold Machine.faultEvent
  exact forPorts_keeps (fun p _ => k.countFault c p) (k.setEngine c _ inv)

theorem windowEval (c : Chan) (p : Port) {s : State} (inv : P s) : P (windowEval c p s) :=
  ite_keeps (fun _ => ite_keeps (fun _ => inv) fun _ => k.deliver p c _ _ _ (k.setView p c _ inv)) fun _ => inv

theorem positionChange (c : Chan) {s : State} (inv : P s) : P (positionChange c s) :=
  forPorts_keeps (fun p _ => k.windowEval c p) inv

theorem noticeViews (c : Chan) (kind : NoticeKind) (value aux : Word) {s : State} (inv : P s) :
    P (noticeViews c kind value aux s) :=
  forPorts_keeps (fun p _ => k.deliver p c kind value aux) inv

theorem chargeEviction (c : Chan) (seq : Word) (p : Port) {s : State} (inv : P s) :
    P (chargeEviction c seq p s) :=
  ite_keeps (fun _ => ite_keeps (fun _ => k.setView p c _ inv)
    fun _ => k.deliver p c _ _ _ (k.setView p c _ inv)) fun _ => inv

theorem evictOldest (c : Chan) {s : State} (inv : P s) : P (evictOldest c s) := by
  unfold Machine.evictOldest
  dsimp only
  split
  · exact inv
  · exact ite_keeps (fun _ => forPorts_keeps (fun p _ => k.chargeEviction c _ p) (k.setRing c _ inv)) fun _ => inv

theorem endMeasurement (c : Chan) (kind : EntryKind) (value : Word) (overrange : Bool) {s : State} (inv : P s) :
    P (endMeasurement c kind value overrange s) :=
  k.primaryEvent c (k.setRing c _ (k.evictOldest c inv))

theorem captureSlot (before : Option (Chan × Engine)) (i : SlotIdx) {s : State} (inv : P s) :
    P (captureSlot before i s) := by
  unfold Machine.captureSlot
  dsimp only
  split
  · exact inv
  · split
    · exact ite_keeps (fun _ => k.setSlot i _ inv) fun _ => k.hand _ _ (k.setSlot i _ inv)
    · exact inv

theorem captureEvent (cause : CaptureCause) {s : State} (inv : P s) : P (captureEvent cause s) :=
  forSlots_keeps (fun i _ inv => ite_keeps (fun _ => k.captureSlot _ i inv) fun _ => inv) inv

theorem expireSlot (reason : ExpiryReason) (aux : Word) (i : SlotIdx) {s : State} (inv : P s) :
    P (expireSlot reason aux i s) := by
  unfold Machine.expireSlot
  dsimp only
  split
  · exact inv
  · exact k.hand _ _ (k.setSlot i _ inv)

theorem pass (r : Resource) (cause : Word) (former : Port) {s : State} (inv : P s) :
    P (pass r cause former s) := by
  unfold Machine.pass
  dsimp only
  split
  · exact k.setClaim r _ inv
  · exact k.hand _ _ (k.setClaim r _ inv)

theorem expireLease (r : Resource) {s : State} (inv : P s) : P (expireLease r s) := by
  unfold Machine.expireLease
  dsimp only
  split
  · exact inv
  · exact k.pass r _ _ (k.hand _ _ (k.setClaim r _ inv))

theorem clearReferenced (c : Chan) (cause : Word) {s : State} (inv : P s) : P (clearReferenced c cause s) :=
  ite_keeps (fun _ => k.noticeViews c _ _ _ (k.setEngine c _ inv)) fun _ => inv

theorem countStep (c : Chan) (step : Word) {s : State} (inv : P s) : P (countStep c step s) :=
  k.positionChange c (k.primaryEvent c (k.setEngine c _ inv))

theorem phaseError (c : Chan) {s : State} (inv : P s) : P (phaseError c s) :=
  k.clearReferenced c 1 (k.setEngine c _ (k.faultEvent c inv))

theorem legalTransition (c : Chan) {s : State} (inv : P s) : P (legalTransition c s) := by
  have decoded : P (takeDecoderState c s) := k.setEngine c _ inv
  unfold Machine.legalTransition
  dsimp only
  split
  · split
    · exact k.countStep c _ decoded
    · exact decoded
  · exact decoded

theorem homingLoad (c : Chan) {s : State} (inv : P s) : P (homingLoad c s) :=
  k.positionChange c (k.noticeViews c _ _ _ (k.setEngine c _ inv))

theorem qualifiedIndex (c : Chan) {s : State} (inv : P s) : P (qualifiedIndex c s) :=
  have pushed : P (pushEntry c .index (s.engine c).position false (s.engine c).homingArmed s) :=
    k.setRing c _ (k.evictOldest c inv)
  k.captureEvent _ (ite_keeps (fun _ => k.homingLoad c pushed) fun _ => pushed)

theorem evalIndex (c : Chan) {s : State} (inv : P s) : P (evalIndex c s) :=
  ite_keeps (fun _ => k.qualifiedIndex c (k.setEngine c _ inv)) fun _ => k.setEngine c _ inv

theorem glitchFaults (c : Chan) (a b z : Bool) {s : State} (inv : P s) : P (glitchFaults c a b z s) :=
  have one (x : Bool) {u : State} (inv : P u) : P (if x then Machine.faultEvent c u else u) :=
    ite_keeps (fun _ => k.faultEvent c inv) fun _ => inv
  one z (one b (one a inv))

theorem reportQuad (c : Chan) (r : Report) {s : State} (inv : P s) : P (reportQuad c r s) :=
  have decoded {u : State} (inv : P u) : P (if r.edgeA && r.edgeB then Machine.phaseError c u
      else if r.edgeA || r.edgeB then Machine.legalTransition c u else u) :=
    ite_keeps (fun _ => k.phaseError c inv) fun _ => ite_keeps (fun _ => k.legalTransition c inv) fun _ => inv
  have evaluated {u : State} (inv : P u) :
      P (if r.edgeA || r.edgeB || r.edgeZ then Machine.evalIndex c u else u) :=
    ite_keeps (fun _ => k.evalIndex c inv) fun _ => inv
  evaluated (decoded (k.glitchFaults c _ _ _ inv))

theorem reportTally (c : Chan) (r : Report) {s : State} (inv : P s) : P (reportTally c r s) := by
  have gated {u : State} (inv : P u) : P (if r.edgeB then u.setEngine c { u.engine c with
      modeState := gateState (s.chanSettings c).gate (s.chanLines c).b.filtered } else u) :=
    ite_keeps (fun _ => k.setEngine c _ inv) fun _ => inv
  have counted {u : State} (inv : P u) : P (if r.edgeA && tallySelects (s.chanSettings c).tallyEdge
      (s.chanLines c).a.filtered && (u.engine c).modeState == .gateOpen then countEdge c u else u) :=
    ite_keeps (fun _ => k.primaryEvent c (k.setEngine c _ inv)) fun _ => inv
  exact counted (gated (k.glitchFaults c _ _ _ inv))

theorem spanEdge (c : Chan) {s : State} (inv : P s) : P (spanEdge c s) := by
  unfold Machine.spanEdge
  split
  · exact k.setEngine c _ (k.endMeasurement c _ _ _ inv)
  · exact k.setEngine c _ inv

theorem widthEdge (c : Chan) {s : State} (inv : P s) : P (widthEdge c s) := by
  unfold Machine.widthEdge
  dsimp only
  split
  · exact ite_keeps (fun _ => inv) fun _ => k.setEngine c _ inv
  · exact ite_keeps (fun _ => k.setEngine c _ inv) fun _ => inv
  · exact ite_keeps (fun _ => inv) fun _ => k.setEngine c _ (k.endMeasurement c _ _ _ inv)
  · exact inv

theorem takeReport (c : Chan) (r : Report) {s : State} (inv : P s) : P (takeReport c r s) := by
  have faulted := k.glitchFaults c r.glitchA false false inv
  unfold Machine.takeReport
  split
  · exact inv
  · exact k.reportQuad c r inv
  · exact k.reportTally c r inv
  · exact ite_keeps (fun _ => k.spanEdge c faulted) fun _ => faulted
  · exact ite_keeps (fun _ => k.widthEdge c faulted) fun _ => faulted

theorem takeSample (u : Sample) {s : State} (inv : P s) : P (takeSample u s) := by
  cases u with
  | chan c v =>
    have conditioned (x : ChanLines) : P (s.setChanLines c x) :=
      k.frame (setChanLines_only s c x) (by decide) (by decide) (by decide) inv
    exact ite_keeps (fun _ => k.takeReport c _ (conditioned _)) fun _ => conditioned _
  | cap n v =>
    have conditioned (x : CapConditioner) : P (s.setCap n x) :=
      k.frame (setCap_only s n x) (by decide) (by decide) (by decide) inv
    exact ite_keeps (fun _ => k.captureEvent _ (conditioned _)) fun _ => conditioned _

theorem overrangeEnd (c : Chan) {s : State} (inv : P s) : P (overrangeEnd c s) := by
  unfold Machine.overrangeEnd
  split
  · exact k.setEngine c _ (k.endMeasurement c _ _ _ inv)
  · exact k.setEngine c _ (k.endMeasurement c _ _ _ inv)
  · exact inv

theorem releaseResource (p : Port) (r : Resource) {s : State} (inv : P s) : P (releaseResource p r s).1 := by
  unfold Machine.releaseResource
  dsimp only
  split
  · exact k.pass r _ _ inv
  · split
    · exact k.setClaim r _ inv
    · exact inv

theorem reconfigureView (c : Chan) (old new : Mode) (unread : Word) (p : Port) {s : State} (inv : P s) :
    P (reconfigureView c old new unread p s) :=
  k.setView p c _ (ite_keeps (fun _ => k.hand p _ inv) fun _ => inv)

theorem reconfigureSlot (c : Chan) (new : ChanSettings) (i : SlotIdx) {s : State} (inv : P s) :
    P (reconfigureSlot c new i s) := by
  unfold Machine.reconfigureSlot
  split
  · exact inv
  · exact ite_keeps (fun _ => k.expireSlot _ _ i inv) fun _ => ite_keeps (fun _ => k.expireSlot _ _ i inv) fun _ =>
      k.frame (markStale_only c i s) (by decide) (by decide) (by decide) inv

theorem reconfigure (c : Chan) (new : ChanSettings) {s : State} (inv : P s) : P (reconfigure c new s) :=
  have conditioned : P ((s.setChanSettings c new).setChanLines c (restartChanLines (s.chanLines c))) :=
    k.frame ((setChanSettings_only s c new).andThen (setChanLines_only _ c _) (hs := [.settings, .lines])
      (by decide)) (by decide) (by decide) (by decide) inv
  have emptied : P (emptyRing c (((s.setChanSettings c new).setChanLines c (restartChanLines (s.chanLines c))).setEngine
      c (enterMode new (restartChanLines (s.chanLines c)) (s.engine c)))) :=
    k.frame (emptyRing_only c _) (by decide) (by decide) (by decide) (k.setEngine c _ conditioned)
  forSlots_keeps (fun i _ => k.reconfigureSlot c new i)
    (forPorts_keeps (fun p _ => k.reconfigureView c _ _ _ p) emptied)

theorem tuningChange (c : Chan) (new : ChanSettings) {s : State} (inv : P s) : P (tuningChange c new s) :=
  have stored : P (s.setChanSettings c new) :=
    k.frame (setChanSettings_only s c new) (by decide) (by decide) (by decide) inv
  have lost {u : State} (inv : P u) : P (loseIndexSource c 3 u) :=
    forSlots_keeps (fun i _ inv => ite_keeps (fun _ => k.expireSlot _ _ i inv) fun _ => inv) inv
  ite_keeps (fun _ => ite_keeps (fun _ => lost (k.setEngine c _ stored)) fun _ =>
    ite_keeps (fun _ => k.setEngine c _ stored) fun _ => stored) fun _ => stored

theorem storeChannel (c : Chan) (new : ChanSettings) {s : State} (inv : P s) : P (storeChannel c new s).1 := by
  unfold Machine.storeChannel
  split <;> dsimp only
  · exact k.reconfigure c new inv
  · exact k.tuningChange c new inv

theorem storeDevice (new : DeviceSettings) {s : State} (inv : P s) : P (storeDevice new s) :=
  have stored : P (s.setDevice new) :=
    k.frame (setDevice_only s new) (by decide) (by decide) (by decide) inv
  have leases {u : State} (inv : P u) :
      P (if s.device.leasePeriod ≠ new.leasePeriod then forResources relength u else u) :=
    ite_keeps (fun _ => forResources_keeps (fun r _ inv =>
      k.frame (relength_only r _) (by decide) (by decide) (by decide) inv) inv) fun _ => inv
  have lost (i : SlotIdx) (u : State) (inv : P u) : P (loseLineSource s.device new i u) := by
    unfold Machine.loseLineSource
    split
    · exact ite_keeps (fun _ => k.expireSlot _ _ i inv) fun _ => inv
    · exact inv
  have counts {u : State} (inv : P u) :
      P (if s.device.lineFilterStep ≠ new.lineFilterStep then restartCap 1 (restartCap 0 u) else u) :=
    ite_keeps (fun _ => k.frame ((restartCap_only 0 u).trans (restartCap_only 1 _)) (by decide) (by decide)
      (by decide) inv) fun _ => inv
  counts (forSlots_keeps lost (leases stored))

theorem presetBody (pl : List Byte) (c : Chan) {s : State} (inv : P s) : P (presetBody pl c s).1 := by
  unfold Machine.presetBody
  split <;> dsimp only
  · exact k.positionChange c (k.clearReferenced c 2 (k.setEngine c _ inv))
  · exact inv

theorem storeView (p : Port) (c : Chan) (w : ViewSettings) {s : State} (inv : P s) : P (storeView p c w s) :=
  have told (b : Bool) (kind : NoticeKind) (x y : Word) {u : State} (inv : P u) :
      P (if b then Machine.deliver p c kind x y u else u) :=
    ite_keeps (fun _ => k.deliver p c kind x y inv) fun _ => inv
  k.setView p c _ (told _ _ _ _ (told _ _ _ _ (k.setView p c _ inv)))

theorem armSnapshot (p : Port) (cs : List Chan) (src : SnapSource) (limit : Half) (i : SlotIdx) {s : State}
    (inv : P s) : P (armSnapshot p cs src limit i s) :=
  have held (sn : Snapshot) : P (allocate i sn s) :=
    k.frame (allocate_only i sn s) (by decide) (by decide) (by decide) inv
  ite_keeps (fun _ => k.captureSlot none i (held _)) fun _ => held _

/-- Such a law is kept by every move but those that write queues, wake sets or lines by themselves. -/
theorem move {fs : List Field} {s t : State} (m : Move fs s t)
    (start : ∀ phase, P (startReset phase s)) (wake : ∀ p w, P s → P (evalLine p (s.setWakeSet p w)))
    (fetch : ∀ p pl, P s → P (fetchBody p pl s).1) (drop : ∀ p {u : State}, P u → P (dropQueue p u))
    (reset : ∀ p, P (deviceResetBody p s).1) (inv : P s) : P t := by
  by_cases apart : Field.queues ∉ fs ∧ Field.intLine ∉ fs ∧ Field.wake ∉ fs
  · obtain ⟨queues, lines, wakes⟩ := apart
    exact k.frame m.only queues lines wakes inv
  · cases m with
    | startReset => exact start _
    | sample => exact k.takeSample _ inv
    | overrange => exact k.overrangeEnd _ inv
    | leaseEnd => exact k.expireLease _ inv
    | limitEnd => exact k.expireSlot _ _ _ inv
    | target => exact k.captureEvent _ inv
    | release => exact k.releaseResource _ _ inv
    | setChannel => exact k.storeChannel _ _ inv
    | setDevice => exact k.storeDevice _ inv
    | setPort => exact wake _ _ inv
    | preset => exact k.presetBody _ _ inv
    | setView => exact k.storeView _ _ _ inv
    | arm => exact k.armSnapshot _ _ _ _ _ inv
    | fetch => exact fetch _ _ inv
    | portReset _ p pl =>
      refine drop p (forChans_keeps (fun c _ => k.setView p c _) (forSlots_keeps (fun i u inv => ?_)
        (forResources_keeps (fun r _ => k.setClaim r _) (forResources_keeps (fun r _ inv =>
          ite_keeps (fun _ => k.pass r _ _ inv) fun _ => inv) inv))))
      exact k.frame (dropSlot_only p i u) (by decide) (by decide) (by decide) inv
    | deviceReset => exact reset _
    | _ => exact absurd (by decide) apart

end KeptByNotices

/-! ### Queues (R163, R164, R167) -/

/-- The law of one notice queue. -/
def Queue.Lawful (q : Queue) : Prop :=
  q.notices.length ≤ 16 ∧ (q.lossPending = true → q.notices.length = 16) ∧ (q.lossPending = true ↔ q.lost ≠ 0)

theorem queueInv_iff (s : State) : QueueInv s ↔ ∀ p, (s.queue p).Lawful := Iff.rfl

theorem Queue.reset_lawful : Queue.reset.Lawful := by simp [Queue.Lawful, Queue.reset]

theorem satInc_ne_zero (x : Byte) : satInc x ≠ 0 := by
  revert x
  decide

theorem Queue.afterNotice_lawful {q : Queue} (law : q.Lawful) (n : Notice) : (q.afterNotice n).Lawful := by
  obtain ⟨le, full, pending⟩ := law
  unfold Queue.afterNotice
  split
  · rename_i room
    have clear : q.lossPending ≠ true := fun h => absurd (full h) (by omega)
    refine ⟨?_, fun h => absurd h clear, pending⟩
    rw [List.length_append]
    exact room
  · rename_i held
    exact ⟨le, fun _ => Nat.le_antisymm le (Nat.le_of_not_lt held), iff_of_true rfl (satInc_ne_zero _)⟩

/-- At least one notice leaves a queue that has lost one, so that the LOSS notice finds room (R166, R167). -/
theorem appendLoss_drop_lawful {q : Queue} (law : q.Lawful) (now : Tick) {k : Nat} (some : 1 ≤ k) :
    (appendLoss now { q with notices := q.notices.drop k }).Lawful := by
  obtain ⟨le, full, pending⟩ := law
  unfold appendLoss
  split
  · refine ⟨?_, fun h => absurd h (by simp), by simp⟩
    simp only [List.length_append, List.length_drop, List.length_singleton]
    omega
  · rename_i clear
    refine ⟨?_, fun h => absurd h clear, pending⟩
    simp only [List.length_drop]
    omega

theorem queueInv_of_only {fs : List Field} {s t : State} (h : SameExcept fs s t) (queues : Field.queues ∉ fs)
    (inv : QueueInv s) : QueueInv t := fun p => by
  rw [h.queue_eq queues]
  exact inv p

theorem queueInv_setQueue {s : State} (inv : QueueInv s) (p : Port) {q : Queue} (law : q.Lawful) :
    QueueInv (s.setQueue p q) := by
  refine (queueInv_iff _).mpr fun j => ?_
  rw [State.queue_setQueue]
  split
  · exact law
  · exact inv j

theorem queueInv_keptByNotices : KeptByNotices QueueInv where
  frame h queues _ _ := queueInv_of_only h queues
  hand p n s inv := (queueInv_iff _).mpr fun q => by
    rw [handNotice_queue]
    split
    · exact Queue.afterNotice_lawful (inv q) n
    · exact inv q

theorem fetchBody_keeps_queueInv (p : Port) (pl : List Byte) {s : State} (inv : QueueInv s) :
    QueueInv (fetchBody p pl s).1 := by
  unfold fetchBody
  dsimp only
  split
  · rename_i max
    refine queueInv_of_only (evalLine_only p _) (by decide) (queueInv_setQueue inv p ?_)
    by_cases empty : (s.queue p).notices = []
    · have law : (s.queue p).Lawful := inv p
      have clear : (s.queue p).lossPending ≠ true := fun h => by
        have := law.2.1 h
        simp [empty] at this
      simpa [empty, appendLoss, clear, Queue.Lawful] using law
    · exact appendLoss_drop_lawful (inv p) s.now (Nat.le_min.mpr ⟨max.1, List.length_pos_of_ne_nil empty⟩)
  · exact inv

theorem move_keeps_queueInv {fs : List Field} {s t : State} (m : Move fs s t) (inv : QueueInv s) : QueueInv t := by
  have reset {u : State} (queues : u.queues = State.reset.queues) : QueueInv u := (queueInv_iff u).mpr fun p => by
    simpa only [State.queue, queues, State.reset, tget_replicate] using Queue.reset_lawful
  refine queueInv_keptByNotices.move m (fun phase => reset rfl)
    (fun p w => queueInv_of_only (evalLine_setWakeSet_only p w s) (by decide)) (fun p pl => fetchBody_keeps_queueInv p pl)
    (fun p {u} inv => ?_) (fun p => reset rfl) inv
  exact queueInv_of_only ((setWakeSet_only _ _ _).andThen (setIntLevel_only _ _ _) (hs := [.wake, .intLine])
    (by decide)) (by decide) (queueInv_setQueue inv p Queue.reset_lawful)

/-! ### Interrupt lines (R171) -/

theorem lineLevel_eq_low (notices : List Notice) (wake : BitVec 12) :
    lineLevel notices wake = .low ↔ ∃ n ∈ notices, hasKind wake n.kind = true := by
  unfold lineLevel
  split
  · rename_i h
    simpa using h
  · rename_i h
    simpa using h

theorem level_eq_iff (a b : Level) : a = b ↔ (a = .low ↔ b = .low) := by
  cases a <;> cases b <;> decide

/-- A line stands as R171 would evaluate it now. -/
theorem lineInv_iff (s : State) : LineInv s ↔ ∀ p, s.intLevel p = lineLevel (s.queue p).notices (s.wakeSet p) := by
  refine forall_congr' fun p => ?_
  rw [level_eq_iff (s.intLevel p) (lineLevel _ _), lineLevel_eq_low]

theorem SameExcept.intLevel_eq {fs : List Field} {s t : State} (h : SameExcept fs s t)
    (hf : Field.intLine ∉ fs) (p : Port) : t.intLevel p = s.intLevel p := by
  have e : t.intLine = s.intLine := h .intLine hf
  simp only [State.intLevel, e]

theorem SameExcept.wakeSet_eq {fs : List Field} {s t : State} (h : SameExcept fs s t)
    (hf : Field.wake ∉ fs) (p : Port) : t.wakeSet p = s.wakeSet p := by
  have e : t.wake = s.wake := h .wake hf
  simp only [State.wakeSet, e]

theorem lineInv_keptByNotices : KeptByNotices LineInv where
  frame h queues lines wake inv := (lineInv_iff _).mpr fun p => by
    rw [h.intLevel_eq lines, h.queue_eq queues, h.wakeSet_eq wake]
    exact (lineInv_iff _).mp inv p
  hand p n s inv := (lineInv_iff _).mpr fun q => by
    have before := (lineInv_iff _).mp inv q
    rw [handNotice_intLevel, handNotice_queue, (handNotice_only p n s).wakeSet_eq (by decide)]
    by_cases other : p = q
    · subst other
      by_cases room : (s.queue p).notices.length < 16 <;> simp [Queue.afterNotice, room, before]
    · simp [other, before]

/-- An evaluation of one line, whatever came before at its port, leaves every line as R171 would evaluate it. -/
theorem evalLine_lineInv {p : Port} {s t : State} (inv : LineInv s)
    (others : ∀ q, q ≠ p → t.intLevel q = s.intLevel q ∧ t.queue q = s.queue q ∧ t.wakeSet q = s.wakeSet q) :
    LineInv (evalLine p t) := by
  refine (lineInv_iff _).mpr fun q => ?_
  have only := evalLine_only p t
  rw [only.queue_eq (by decide), only.wakeSet_eq (by decide), evalLine, State.intLevel_setIntLevel]
  split
  · subst q; rfl
  · obtain ⟨line, queue, wake⟩ := others q (Ne.symm ‹_›)
    rw [line, queue, wake]
    exact (lineInv_iff _).mp inv q

theorem fetchBody_keeps_lineInv (p : Port) (pl : List Byte) {s : State} (inv : LineInv s) :
    LineInv (fetchBody p pl s).1 := by
  unfold fetchBody
  dsimp only
  split
  · refine evalLine_lineInv inv fun q other => ⟨rfl, ?_, rfl⟩
    rw [State.queue_setQueue, if_neg other.symm]
  · exact inv

theorem dropQueue_keeps_lineInv (p : Port) {s : State} (inv : LineInv s) : LineInv (dropQueue p s) := by
  refine (lineInv_iff _).mpr fun q => ?_
  unfold dropQueue
  simp only [State.intLevel_setIntLevel, State.setIntLevel_queue, State.setIntLevel_wakeSet,
    State.setWakeSet_queue, State.wakeSet_setWakeSet, State.queue_setQueue, State.setWakeSet_intLevel,
    State.setQueue_intLevel, State.setQueue_wakeSet]
  split
  · rfl
  · exact (lineInv_iff _).mp inv q

theorem lineInv_of_reset {s : State} (queues : s.queues = State.reset.queues) (lines : s.intLine = State.reset.intLine) :
    LineInv s := by
  refine (lineInv_iff _).mpr fun p => ?_
  simp only [State.intLevel, State.queue, queues, lines, State.reset, tget_replicate]
  rfl

theorem move_keeps_lineInv {fs : List Field} {s t : State} (m : Move fs s t) (inv : LineInv s) : LineInv t := by
  refine lineInv_keptByNotices.move m (fun phase => lineInv_of_reset rfl rfl)
    (fun p w inv => evalLine_lineInv inv fun q other => ⟨rfl, rfl, ?_⟩)
    (fun p pl => fetchBody_keeps_lineInv p pl) (fun p _ => dropQueue_keeps_lineInv p)
    (fun p => lineInv_of_reset rfl rfl) inv
  rw [State.wakeSet_setWakeSet, if_neg other.symm]

/-- Settles O52: the handing of a notice keeps both laws, and so does every move, of which only FETCH, SET_PORT and
the resets write a queue or a line otherwise. -/
theorem stepKeepsNoticeInv : Obligations.StepKeepsNoticeInv := by
  unfold Obligations.StepKeepsNoticeInv
  intro s t h
  exact ⟨(step_moves h).keeps move_keeps_queueInv, (step_moves h).keeps move_keeps_lineInv⟩

end Sys2Proof.Machine
end

section
/-! PROOFS. The claim table: every step keeps its law (O53). -/

namespace Sys2Proof.Machine

open Sys2Proof

/-! ### One action for each entry of a table -/

/-- One action for each entry of a table, each of which makes of its own entry what `F` says and leaves the other
entries, and all that `F` reads: it makes of every entry what `F` says. -/
theorem foldl_table {n : Nat} {β γ : Type} {get : State → Fin n → β} {f : Fin n → State → State}
    {read : State → γ} {F : γ → Fin n → β → β}
    (own : ∀ i j s, get (f i s) j = if i = j then F (read s) j (get s j) else get s j)
    (same : ∀ i s, read (f i s) = read s) (j : Fin n) (s : State) :
    get ((List.finRange n).foldl (fun s i => f i s) s) j = F (read s) j (get s j) := by
  have general : ∀ (l : List (Fin n)) (s : State), l.Nodup →
      get (l.foldl (fun s i => f i s) s) j = if j ∈ l then F (read s) j (get s j) else get s j := by
    intro l
    induction l with
    | nil => intro s _; simp
    | cons i l ih =>
      intro s nodup
      obtain ⟨fresh, nodup⟩ := List.nodup_cons.mp nodup
      rw [List.foldl_cons, ih (f i s) nodup, same, own]
      by_cases here : i = j
      · subst here; simp [fresh]
      · simp [here, Ne.symm here]
  rw [general _ s (List.nodup_finRange n), if_pos (List.mem_finRange j)]

/-! ### The law of one resource (R96, R103, R110) -/

/-- The law of one resource under a lease period. -/
def Claim.Lawful (period : Byte) (cl : Claim) : Prop :=
  cl.waiters.Nodup ∧ (∀ h, cl.holder = some h → h ∉ cl.waiters) ∧ (cl.holder = none → cl.waiters = []) ∧
    (cl.leaseDue.isSome = true ↔ cl.holder.isSome = true ∧ period ≠ 0)

theorem claimInv_iff (s : State) : ClaimInv s ↔ ∀ r, (s.claim r).Lawful s.device.leasePeriod := Iff.rfl

theorem newLease_isSome (s : State) : s.newLease.isSome = true ↔ s.device.leasePeriod ≠ 0 := by
  unfold State.newLease
  split
  · simp [*]
  · exact iff_of_true rfl ‹_›

theorem SameExcept.newLease_eq {fs : List Field} {s t : State} (h : SameExcept fs s t) (now : Field.now ∉ fs)
    (device : Field.device ∉ fs) : t.newLease = s.newLease := by
  have sameNow : t.now = s.now := h .now now
  have sameDevice : t.device = s.device := h .device device
  simp only [State.newLease, State.dueIn, sameNow, sameDevice]

namespace Claim

theorem free_lawful (period : Byte) : Claim.free.Lawful period := by simp [Lawful, Claim.free]

/-- A held resource is lawful with any lease that runs exactly under a nonzero period. -/
theorem relength_lawful {period other : Byte} {cl : Claim} {due : Option Tick} (law : cl.Lawful other)
    (held : cl.holder.isSome = true) (runs : due.isSome = true ↔ period ≠ 0) :
    Lawful period { cl with leaseDue := due } := by
  obtain ⟨nodup, apart, unheld, -⟩ := law
  exact ⟨nodup, apart, unheld, by simp [held, runs]⟩

/-- A resource that no port holds has no lease, whatever the period. -/
theorem unheld_lawful {period other : Byte} {cl : Claim} (law : cl.Lawful other) (free : cl.holder.isSome ≠ true) :
    cl.Lawful period := by
  obtain ⟨nodup, apart, unheld, lease⟩ := law
  refine ⟨nodup, apart, unheld, ?_⟩
  rw [lease]
  simp [free]

/-- A pass makes the oldest waiter the holder of the rest of the list. -/
theorem passed_lawful {period : Byte} {waiters : List Port} {lease : Option Tick} (nodup : waiters.Nodup)
    (runs : lease.isSome = true ↔ period ≠ 0) :
    Lawful period { holder := waiters.head?, waiters := waiters.tail
                    leaseDue := if waiters = [] then none else lease } := by
  cases waiters with
  | nil => simp [Lawful]
  | cons w ws =>
    obtain ⟨fresh, rest⟩ := List.nodup_cons.mp nodup
    refine ⟨rest, fun h eq => ?_, fun h => absurd h (by simp), by simp [runs]⟩
    simp only [List.head?_cons, Option.some.injEq] at eq
    exact eq ▸ fresh

theorem withoutWaiter_lawful {period : Byte} {cl : Claim} (law : cl.Lawful period) (p : Port) :
    Lawful period { cl with waiters := cl.waiters.filter (fun q => q != p) } := by
  obtain ⟨nodup, apart, unheld, lease⟩ := law
  exact ⟨nodup.filter _, fun h eq mem => apart h eq (List.mem_of_mem_filter mem),
    fun none => by simp [unheld none], lease⟩

theorem withWaiter_lawful {period : Byte} {cl : Claim} {h p : Port} (law : cl.Lawful period)
    (held : cl.holder = some h) (other : h ≠ p) (new : p ∉ cl.waiters) :
    Lawful period { cl with waiters := cl.waiters ++ [p] } := by
  obtain ⟨nodup, apart, -, lease⟩ := law
  refine ⟨?_, fun k eq mem => ?_, fun none => absurd (held.symm.trans none) (by simp), lease⟩
  · rw [List.nodup_append]
    refine ⟨nodup, List.nodup_singleton p, fun a mem b single => ?_⟩
    rw [List.mem_singleton.mp single]
    exact fun eq => new (eq ▸ mem)
  · have holder : h = k := Option.some.inj (held.symm.trans eq)
    subst holder
    rcases List.mem_append.mp mem with waits | joins
    · exact apart h held waits
    · exact other (List.mem_singleton.mp joins)

theorem taken_lawful {period : Byte} {cl : Claim} {lease : Option Tick} (law : cl.Lawful period)
    (free : cl.holder = none) (runs : lease.isSome = true ↔ period ≠ 0) (p : Port) :
    Lawful period { cl with holder := some p, leaseDue := lease } := by
  obtain ⟨-, -, unheld, -⟩ := law
  have empty := unheld free
  exact ⟨by simp [empty], fun h _ => by simp [empty], fun h => absurd h (by simp), by simp [runs]⟩

end Claim

/-! ### The operations of the table -/

theorem claimInv_of_only {fs : List Field} {s t : State} (h : SameExcept fs s t) (claims : Field.claims ∉ fs)
    (device : Field.device ∉ fs) (inv : ClaimInv s) : ClaimInv t := (claimInv_iff t).mpr fun r => by
  have settings : t.device = s.device := h .device device
  rw [h.claim_eq claims, settings]
  exact inv r

theorem claimInv_setClaim {s : State} (inv : ClaimInv s) {r : Resource} {x : Claim}
    (law : x.Lawful s.device.leasePeriod) : ClaimInv (s.setClaim r x) := (claimInv_iff _).mpr fun k => by
  rw [State.claim_setClaim]
  split
  · exact law
  · exact inv k

theorem pass_keeps_claimInv (r : Resource) (cause : Word) (former : Port) {s : State} (inv : ClaimInv s) :
    ClaimInv (pass r cause former s) := (claimInv_iff _).mpr fun k => by
  have device : (pass r cause former s).device = s.device := pass_only r cause former s .device (by decide)
  rw [device]
  by_cases here : k = r
  · subst here
    rw [pass_claim_self]
    exact Claim.passed_lawful (inv k).1 (newLease_isSome s)
  · rw [pass_claim_of_ne _ _ _ _ here]
    exact inv k

/-- The expiry of the lease of a held resource passes it (R106). -/
theorem expireLease_claim_self (r : Resource) (s : State) {h : Port} (held : (s.claim r).holder = some h) :
    (expireLease r s).claim r =
      { holder := (s.claim r).waiters.head?
        waiters := (s.claim r).waiters.tail
        leaseDue := if (s.claim r).waiters = [] then none else s.newLease } := by
  unfold expireLease
  dsimp only
  rw [held]
  dsimp only
  rw [pass_claim_self, (handNotice_only _ _ _).claim_eq (by decide),
    (handNotice_only _ _ _).newLease_eq (by decide) (by decide), State.claim_setClaim_self]
  rfl

theorem expireLease_claim_of_ne {r k : Resource} (other : k ≠ r) (s : State) :
    (expireLease r s).claim k = s.claim k := by
  unfold expireLease
  dsimp only
  split
  · rfl
  · rw [pass_claim_of_ne _ _ _ _ other, (handNotice_only _ _ _).claim_eq (by decide), State.claim_setClaim,
      if_neg other.symm]

theorem expireLease_keeps_claimInv (r : Resource) {s : State} (inv : ClaimInv s) : ClaimInv (expireLease r s) := by
  cases held : (s.claim r).holder with
  | none =>
    have same : expireLease r s = s := by simp only [expireLease, held]
    rwa [same]
  | some h =>
    refine (claimInv_iff _).mpr fun k => ?_
    have device : (expireLease r s).device = s.device := expireLease_only r s .device (by decide)
    rw [device]
    by_cases here : k = r
    · subst here
      rw [expireLease_claim_self k s held]
      exact Claim.passed_lawful (inv k).1 (newLease_isSome s)
    · rw [expireLease_claim_of_ne here]
      exact inv k

theorem restartLease_keeps_claimInv {r : Resource} {s : State} (held : (s.claim r).holder.isSome = true)
    (inv : ClaimInv s) : ClaimInv (restartLease r s) :=
  ite_keeps (fun _ => inv) fun _ => claimInv_setClaim inv (Claim.relength_lawful (inv r) held (newLease_isSome s))

theorem renew_keeps_claimInv (p : Port) (r : Resource) {s : State} (inv : ClaimInv s) : ClaimInv (renew p r s) := by
  have counted : ClaimInv s.nextFree := claimInv_of_only (nextFree_only s) (by decide) (by decide) inv
  refine ite_keeps (fun holds => ?_) fun _ => inv
  have held : (s.claim r).holder.isSome = true := by rw [holds]; rfl
  exact ite_keeps (fun _ => ite_keeps (fun _ => restartLease_keeps_claimInv held counted) fun _ => counted)
    fun _ => restartLease_keeps_claimInv held inv

theorem claimResource_keeps_claimInv (p : Port) (r : Resource) (wait : Bool) {s : State} (inv : ClaimInv s) :
    ClaimInv (claimResource p r wait s).1 := by
  cases holder : (s.claim r).holder with
  | none =>
    rw [claimResource_of_free holder]
    exact claimInv_setClaim inv (Claim.taken_lawful (inv r) holder (newLease_isSome s) p)
  | some h =>
    by_cases own : h = p
    · subst own
      rw [claimResource_of_holder holder]
      exact restartLease_keeps_claimInv (by rw [holder]; rfl) inv
    · by_cases waits : p ∈ (s.claim r).waiters
      · rw [claimResource_of_waiter holder own waits]
        exact inv
      · cases wait with
        | true =>
          rw [claimResource_joins holder own waits]
          exact claimInv_setClaim inv (Claim.withWaiter_lawful (inv r) holder own waits)
        | false =>
          rw [claimResource_busy holder own waits]
          exact inv

theorem releaseResource_keeps_claimInv (p : Port) (r : Resource) {s : State} (inv : ClaimInv s) :
    ClaimInv (releaseResource p r s).1 := by
  by_cases own : (s.claim r).holder = some p
  · rw [releaseResource_of_holder own]
    exact pass_keeps_claimInv r 1 p inv
  · by_cases waits : p ∈ (s.claim r).waiters
    · rw [releaseResource_of_waiter own waits]
      exact claimInv_setClaim inv (Claim.withoutWaiter_lawful (inv r) p)
    · rw [releaseResource_not_held own waits]
      exact inv

/-! ### SET_DEVICE (R109) -/

theorem relength_claim (r k : Resource) (s : State) :
    (relength r s).claim k =
      if r = k then
        (if (s.claim k).holder.isSome = true then { s.claim k with leaseDue := s.newLease } else s.claim k)
      else s.claim k := by
  unfold relength
  dsimp only
  by_cases here : r = k
  · subst here
    split <;> simp [*]
  · split <;> simp [here, State.claim_setClaim]

theorem forResources_relength_claim (k : Resource) (s : State) :
    (forResources relength s).claim k =
      if (s.claim k).holder.isSome = true then { s.claim k with leaseDue := s.newLease } else s.claim k :=
  foldl_table (get := State.claim) (read := State.newLease)
    (F := fun lease _ cl => if cl.holder.isSome = true then { cl with leaseDue := lease } else cl)
    (fun r k s => relength_claim r k s)
    (fun r s => (relength_only r s).newLease_eq (by decide) (by decide)) k s

/-- After SET_DEVICE a held resource has a lease of the new length from now where the period changed (R109). -/
theorem storeDevice_claim (new : DeviceSettings) (s : State) (r : Resource) :
    (storeDevice new s).claim r =
      if s.device.leasePeriod ≠ new.leasePeriod ∧ (s.claim r).holder.isSome = true then
        { s.claim r with leaseDue := (s.setDevice new).newLease }
      else s.claim r := by
  have rest : SameExcept [.slots, .caps, .queues, .intLine]
      (if s.device.leasePeriod ≠ new.leasePeriod then forResources relength (s.setDevice new)
        else s.setDevice new) (storeDevice new s) := by
    have sources := fun u => SameExcept.forSlots (loseLineSource_only s.device new) u
    unfold storeDevice
    exact ((sources _).mono (by decide)).trans (SameExcept.ite
      (((restartCap_only 0 _).trans (restartCap_only 1 _)).mono (by decide)) (SameExcept.refl _ _))
  rw [rest.claim_eq (by decide)]
  by_cases changed : s.device.leasePeriod ≠ new.leasePeriod
  · simp only [changed, if_true, ne_eq, not_false_eq_true, true_and, forResources_relength_claim,
      show (s.setDevice new).claim r = s.claim r from rfl]
  · simp only [changed, if_false, false_and]
    rfl

theorem storeDevice_device (new : DeviceSettings) (s : State) : (storeDevice new s).device = new := by
  have leases : ∀ u, SameExcept [.claims, .slots, .caps, .queues, .intLine] u
      (if s.device.leasePeriod ≠ new.leasePeriod then forResources relength u else u) :=
    fun u => SameExcept.ite ((SameExcept.forResources relength_only u).mono (by decide)) (SameExcept.refl _ _)
  have sources : ∀ u, SameExcept [.claims, .slots, .caps, .queues, .intLine] u
      (forSlots (loseLineSource s.device new) u) :=
    fun u => (SameExcept.forSlots (loseLineSource_only s.device new) u).mono (by decide)
  have counts : ∀ u, SameExcept [.claims, .slots, .caps, .queues, .intLine] u
      (if s.device.lineFilterStep ≠ new.lineFilterStep then restartCap 1 (restartCap 0 u) else u) :=
    fun u => SameExcept.ite (((restartCap_only 0 u).trans (restartCap_only 1 _)).mono (by decide))
      (SameExcept.refl _ _)
  exact (((leases (s.setDevice new)).trans (sources _)).trans (counts _)) .device (by decide)

theorem storeDevice_keeps_claimInv (new : DeviceSettings) {s : State} (inv : ClaimInv s) :
    ClaimInv (storeDevice new s) := (claimInv_iff _).mpr fun r => by
  rw [storeDevice_claim, storeDevice_device]
  split
  · rename_i acts
    exact Claim.relength_lawful (inv r) acts.2 (newLease_isSome _)
  · rename_i stays
    by_cases changed : s.device.leasePeriod = new.leasePeriod
    · exact changed ▸ inv r
    · exact Claim.unheld_lawful (inv r) fun held => stays ⟨changed, held⟩

/-! ### The step -/

theorem dropWaiting_keeps_claimInv (p : Port) (r : Resource) {s : State} (inv : ClaimInv s) :
    ClaimInv (dropWaiting p r s) := claimInv_setClaim inv (Claim.withoutWaiter_lawful (inv r) p)

theorem dropHolding_keeps_claimInv (p : Port) (r : Resource) {s : State} (inv : ClaimInv s) :
    ClaimInv (dropHolding p r s) := ite_keeps (fun _ => pass_keeps_claimInv r 3 p inv) fun _ => inv

theorem portResetBody_keeps_claimInv (p : Port) (pl : List Byte) {s : State} (inv : ClaimInv s) :
    ClaimInv (portResetBody p pl s).1 := by
  have table : ClaimInv (forResources (dropWaiting p) (forResources (dropHolding p) s)) :=
    forResources_keeps (fun r _ => dropWaiting_keeps_claimInv p r)
      (forResources_keeps (fun r _ => dropHolding_keeps_claimInv p r) inv)
  refine claimInv_of_only (fs := [.slots, .held, .views, .queues, .wake, .intLine]) ?_ (by decide) (by decide) table
  exact (((SameExcept.forSlots (dropSlot_only p) _).mono (by decide)).trans
    ((SameExcept.forChans (dropView_only p) _).mono (by decide))).trans ((dropQueue_only p _).mono (by decide))

theorem claimInv_of_reset {s : State} (claims : s.claims = State.reset.claims) : ClaimInv s :=
  (claimInv_iff s).mpr fun r => by
    simpa only [State.claim, claims, State.reset, tget_replicate] using Claim.free_lawful _

theorem move_keeps_claimInv {fs : List Field} {s t : State} (m : Move fs s t) (inv : ClaimInv s) : ClaimInv t := by
  by_cases apart : Field.claims ∉ fs ∧ Field.device ∉ fs
  · exact claimInv_of_only m.only apart.1 apart.2 inv
  · cases m with
    | startReset => exact claimInv_of_reset rfl
    | leaseEnd => exact expireLease_keeps_claimInv _ inv
    | activity => exact forResources_keeps (fun r _ => renew_keeps_claimInv _ r) inv
    | claim => exact claimResource_keeps_claimInv _ _ _ inv
    | release => exact releaseResource_keeps_claimInv _ _ inv
    | setDevice => exact storeDevice_keeps_claimInv _ inv
    | portReset => exact portResetBody_keeps_claimInv _ _ inv
    | deviceReset => exact claimInv_of_reset rfl
    | _ => exact absurd (by decide) apart

/-- Settles O53: every operation of the claim table makes lawful resources of lawful ones. -/
theorem stepKeepsClaimInv : Obligations.StepKeepsClaimInv := by
  unfold Obligations.StepKeepsClaimInv
  intro s t inv h
  exact (step_moves h).keeps move_keeps_claimInv inv

end Sys2Proof.Machine
end

section
/-! PROOFS. The snapshot store: what captures, expiries and stale marks make of the slots and tell their owners. -/

namespace Sys2Proof.Machine

open Sys2Proof

/-! ### A slot whose ARMED snapshot is led on -/

/-- A slot whose snapshot, where it is ARMED, takes a phase given by the snapshot, its stale marks and the tick at
which its limit falls due. -/
def Slot.onward (phase : Snapshot → List Chan → Option Tick → SnapPhase) (slot : Slot) : Slot :=
  match slot.body with
  | some sn =>
    match sn.phase with
    | .armed stale due => { slot with body := some { sn with phase := phase sn stale due } }
    | _ => slot
  | none => slot

/-- What the owner of the ARMED snapshot of a slot is told, as `q` sees it (R143, R149). -/
def Slot.tell (news : Snapshot → List Chan → Option Notice) (p : Port) (slot : Slot) (q : Queue) : Queue :=
  match slot.body with
  | some sn =>
    match sn.phase with
    | .armed stale _ =>
      match news sn stale with
      | some n => q.told (sn.owner == p) n
      | none => q
    | _ => q
  | none => q

/-- A slot is ARMED with a snapshot, or holds no ARMED one. -/
theorem Slot.armed_or_not (slot : Slot) :
    (∃ sn stale due, slot.body = some sn ∧ sn.phase = .armed stale due) ∨
    ∀ sn, slot.body = some sn → ∀ stale due, sn.phase ≠ .armed stale due := by
  cases body : slot.body with
  | none => exact .inr fun sn h => absurd h (by simp)
  | some sn =>
    cases phase : sn.phase with
    | armed stale due => exact .inl ⟨sn, stale, due, rfl, phase⟩
    | captured | expired =>
      refine .inr fun sn' h stale due armed => ?_
      cases h
      rw [armed] at phase
      cases phase

section
variable {slot : Slot} {sn : Snapshot} {stale : List Chan} {due : Option Tick}

theorem Slot.onward_of_armed (body : slot.body = some sn) (armed : sn.phase = .armed stale due)
    (phase : Snapshot → List Chan → Option Tick → SnapPhase) :
    slot.onward phase = { slot with body := some { sn with phase := phase sn stale due } } := by
  simp only [onward, body, armed]

theorem Slot.tell_of_armed (body : slot.body = some sn) (armed : sn.phase = .armed stale due)
    (news : Snapshot → List Chan → Option Notice) (p : Port) (q : Queue) :
    slot.tell news p q =
      match news sn stale with
      | some n => q.told (sn.owner == p) n
      | none => q := by
  simp only [tell, body, armed]

theorem Slot.onward_of_not_armed (none : ∀ sn, slot.body = some sn → ∀ stale due, sn.phase ≠ .armed stale due)
    (phase : Snapshot → List Chan → Option Tick → SnapPhase) : slot.onward phase = slot := by
  unfold onward
  split
  · split
    · exact absurd ‹_› (none _ ‹_› _ _)
    · rfl
  · rfl

theorem Slot.tell_of_not_armed (none : ∀ sn, slot.body = some sn → ∀ stale due, sn.phase ≠ .armed stale due)
    (news : Snapshot → List Chan → Option Notice) (p : Port) (q : Queue) : slot.tell news p q = q := by
  unfold tell
  split
  · split
    · exact absurd ‹_› (none _ ‹_› _ _)
    · rfl
  · rfl

end

theorem Slot.onward_same (slot : Slot) : slot.onward (fun _ stale due => .armed stale due) = slot := by
  rcases slot.armed_or_not with ⟨sn, stale, due, body, armed⟩ | none
  · rw [onward_of_armed body armed, ← armed, ← body]
  · exact onward_of_not_armed none _

theorem ownedBy_onward (p : Port) (slot : Slot) (phase : Snapshot → List Chan → Option Tick → SnapPhase) :
    ownedBy p (slot.onward phase) = ownedBy p slot := by
  rcases slot.armed_or_not with ⟨sn, stale, due, body, armed⟩ | none
  · rw [Slot.onward_of_armed body armed]
    simp [ownedBy, body]
  · rw [Slot.onward_of_not_armed none]

section
variable {s : State} {i : SlotIdx} {sn : Snapshot} {stale : List Chan} {due : Option Tick}

theorem armedSnap_of_armed (body : (s.slot i).body = some sn) (armed : sn.phase = .armed stale due) :
    s.armedSnap i = some sn := by
  simp only [State.armedSnap, body, armed]

theorem armedSnap_of_not_armed
    (none : ∀ sn, (s.slot i).body = some sn → ∀ stale due, sn.phase ≠ .armed stale due) :
    s.armedSnap i = Option.none := by
  unfold State.armedSnap
  split
  · split
    · exact absurd ‹_› (none _ ‹_› _ _)
    · rfl
  · rfl

end

/-! ### One slot: captures, expiries, stale marks -/

/-- The phase of a snapshot that is captured now (R143). -/
def capturedNow (s : State) (before : Option (Chan × Engine)) : Snapshot → List Chan → Option Tick → SnapPhase :=
  fun sn stale _ => .captured s.now (sn.channels.map (captureEntry s before stale))

/-- The phase of a snapshot that takes the stale mark of a channel where it lists it (R151). -/
def staled (c : Chan) : Snapshot → List Chan → Option Tick → SnapPhase :=
  fun sn stale due =>
    if c ∈ sn.channels then .armed (sn.channels.filter (fun d => decide (d = c ∨ d ∈ stale))) due
    else .armed stale due

theorem captureSlot_slot (before : Option (Chan × Engine)) (i j : SlotIdx) (s : State) :
    (captureSlot before i s).slot j = if i = j then (s.slot j).onward (capturedNow s before) else s.slot j := by
  unfold captureSlot
  dsimp only
  rcases (s.slot i).armed_or_not with ⟨sn, stale, due, body, armed⟩ | none
  · rw [body]
    dsimp only
    rw [armed]
    dsimp only
    by_cases here : i = j
    · subst here
      rw [if_pos rfl, Slot.onward_of_armed body armed]
      split
      · exact State.slot_setSlot_self _ _ _
      · rw [(handNotice_only _ _ _).slot_eq (by decide), State.slot_setSlot_self]
        rfl
    · rw [if_neg here]
      split
      · rw [State.slot_setSlot, if_neg here]
      · rw [(handNotice_only _ _ _).slot_eq (by decide), State.slot_setSlot, if_neg here]
  · have same : (s.slot i).onward (capturedNow s before) = s.slot i := Slot.onward_of_not_armed none _
    have stays : (if i = j then (s.slot j).onward (capturedNow s before) else s.slot j) = s.slot j := by
      split
      · rename_i here; subst here; exact same
      · rfl
    rw [stays]
    split
    · rfl
    · split
      · exact absurd ‹_› (none _ ‹_› _ _)
      · rfl

theorem expireSlot_slot (reason : ExpiryReason) (aux : Word) (i j : SlotIdx) (s : State) :
    (expireSlot reason aux i s).slot j =
      if i = j then (s.slot j).onward (fun _ _ _ => .expired reason) else s.slot j := by
  unfold expireSlot
  dsimp only
  rcases (s.slot i).armed_or_not with ⟨sn, stale, due, body, armed⟩ | none
  · rw [armedSnap_of_armed body armed]
    dsimp only
    rw [(handNotice_only _ _ _).slot_eq (by decide), State.slot_setSlot]
    by_cases here : i = j
    · subst here
      rw [if_pos rfl, if_pos rfl, Slot.onward_of_armed body armed]
    · rw [if_neg here, if_neg here]
  · rw [armedSnap_of_not_armed none]
    dsimp only
    split
    · rename_i here; subst here; exact (Slot.onward_of_not_armed none _).symm
    · rfl

theorem markStale_slot (c : Chan) (i j : SlotIdx) (s : State) :
    (markStale c i s).slot j = if i = j then (s.slot j).onward (staled c) else s.slot j := by
  unfold markStale
  dsimp only
  rcases (s.slot i).armed_or_not with ⟨sn, stale, due, body, armed⟩ | none
  · rw [body]
    dsimp only
    rw [armed]
    dsimp only
    by_cases here : i = j
    · subst here
      rw [if_pos rfl, Slot.onward_of_armed body armed, staled]
      split
      · exact State.slot_setSlot_self _ _ _
      · rw [← armed, ← body]
    · rw [if_neg here]
      split
      · rw [State.slot_setSlot, if_neg here]
      · rfl
  · have stays : (if i = j then (s.slot j).onward (staled c) else s.slot j) = s.slot j := by
      split
      · rename_i here; subst here; exact Slot.onward_of_not_armed none _
      · rfl
    rw [stays]
    split
    · rfl
    · split
      · exact absurd ‹_› (none _ ‹_› _ _)
      · rfl

/-- The SNAPSHOT_READY that the owner of a snapshot is handed at its capture (R146). -/
def readyNews (i : SlotIdx) (generation : Byte) (now : Tick) (sn : Snapshot) (stale : List Chan) : Notice :=
  { kind := .snapshotReady, source := .handle i generation, time := now, value := readyValue sn
    aux := BitVec.ofNat 32 ((sn.channels.filter (fun c => decide (c ∈ stale))).length) }

/-- The SNAPSHOT_EXPIRED that the owner of a snapshot is handed at its expiry (R147, R149). -/
def expiredNews (i : SlotIdx) (generation : Byte) (now : Tick) (reason : ExpiryReason) (aux : Word) : Notice :=
  { kind := .snapshotExpired, source := .handle i generation, time := now, value := BitVec.ofNat 32 reason.code
    aux }

theorem captureSlot_queue (before : Option (Chan × Engine)) (i : SlotIdx) (q : Port) (s : State) :
    (captureSlot before i s).queue q =
      (s.slot i).tell (fun sn stale => if sn.source = .immediate then none
        else some (readyNews i (s.slot i).generation s.now sn stale)) q (s.queue q) := by
  unfold captureSlot
  dsimp only
  rcases (s.slot i).armed_or_not with ⟨sn, stale, due, body, armed⟩ | none
  · rw [Slot.tell_of_armed body armed]
    simp only [body, armed]
    by_cases immediate : sn.source = .immediate
    · simp only [immediate, if_true, State.setSlot_queue]
    · simp only [immediate, if_false, handNotice_queue, State.setSlot_queue, Queue.told, beq_iff_eq]
      rfl
  · rw [Slot.tell_of_not_armed none]
    split
    · rfl
    · split
      · exact absurd ‹_› (none _ ‹_› _ _)
      · rfl

theorem expireSlot_queue (reason : ExpiryReason) (aux : Word) (i : SlotIdx) (q : Port) (s : State) :
    (expireSlot reason aux i s).queue q =
      (s.slot i).tell (fun _ _ => some (expiredNews i (s.slot i).generation s.now reason aux)) q (s.queue q) := by
  unfold expireSlot
  dsimp only
  rcases (s.slot i).armed_or_not with ⟨sn, stale, due, body, armed⟩ | none
  · rw [Slot.tell_of_armed body armed]
    simp only [armedSnap_of_armed body armed, handNotice_queue, State.setSlot_queue, Queue.told, beq_iff_eq]
    rfl
  · rw [Slot.tell_of_not_armed none, armedSnap_of_not_armed none]

/-! ### All slots in their order -/

/-- An action on each slot that leads its own slot on by `phase`, and leaves what that phase reads, leads every slot
on by it. -/
theorem forSlots_onward {γ : Type} {f : SlotIdx → State → State} {read : State → γ}
    {phase : γ → Snapshot → List Chan → Option Tick → SnapPhase}
    (own : ∀ i j s, (f i s).slot j = if i = j then (s.slot j).onward (phase (read s)) else s.slot j)
    (same : ∀ i s, read (f i s) = read s) (j : SlotIdx) (s : State) :
    (forSlots f s).slot j = (s.slot j).onward (phase (read s)) :=
  foldl_table (get := State.slot) (read := read) (F := fun r _ slot => slot.onward (phase r)) own same j s

/-- An action on each slot that changes no other slot and tells a port what its own slot says, in slot order: a
port is told what the slots say before the action. -/
theorem forSlots_queue {γ : Type} {f : SlotIdx → State → State} {read : State → γ}
    {news : γ → SlotIdx → Slot → Snapshot → List Chan → Option Notice}
    (own : ∀ i j s, i ≠ j → (f i s).slot j = s.slot j) (same : ∀ i s, read (f i s) = read s)
    (tells : ∀ i q s, (f i s).queue q = (s.slot i).tell (news (read s) i (s.slot i)) q (s.queue q))
    (q : Port) (s : State) :
    (forSlots f s).queue q =
      (s.queue q).toldOfSlots s q (fun i sn stale => news (read s) i (s.slot i) sn stale) := by
  have general : ∀ (l : List SlotIdx) (u : State), l.Nodup → read u = read s → (∀ i ∈ l, u.slot i = s.slot i) →
      (l.foldl (fun u i => f i u) u).queue q =
        l.foldl (fun n i => (s.slot i).tell (news (read s) i (s.slot i)) q n) (u.queue q) := by
    intro l
    induction l with
    | nil => intro u _ _ _; rfl
    | cons i l ih =>
      intro u nodup reads slots
      obtain ⟨fresh, nodup⟩ := List.nodup_cons.mp nodup
      have here : u.slot i = s.slot i := slots i List.mem_cons_self
      rw [List.foldl_cons, ih (f i u) nodup ((same i u).trans reads) ?_, List.foldl_cons, tells, reads, here]
      intro j mem
      rw [own i j u (fun e => fresh (e ▸ mem))]
      exact slots j (List.mem_cons_of_mem i mem)
  exact general _ s (List.nodup_finRange 24) rfl fun i _ => rfl

/-! ### Capture events (R142, R143) -/

/-- The engine given with a qualified index: its channel's as it stood before the homing load (R145). -/
def CaptureCause.before : CaptureCause → Option (Chan × Engine)
  | .index c e => some (c, e)
  | _ => none

theorem captureEvent_eq (cause : CaptureCause) (s : State) :
    captureEvent cause s = forSlots (fun i s =>
      if (s.armedSnap i).any (fun sn => serves cause sn.source) then captureSlot cause.before i s else s) s := by
  cases cause <;> rfl

/-- What a capture event makes of an ARMED snapshot: CAPTURED where it is served. -/
def servedPhase (cause : CaptureCause) (now : Tick) (entry : List Chan → Chan → SnapEntry) :
    Snapshot → List Chan → Option Tick → SnapPhase :=
  fun sn stale due =>
    if serves cause sn.source = true then .captured now (sn.channels.map (entry stale)) else .armed stale due

theorem captureSlot_reads (before : Option (Chan × Engine)) (i : SlotIdx) (s : State) :
    ((captureSlot before i s).now, captureEntry (captureSlot before i s) before) =
      (s.now, captureEntry s before) := by
  have only := captureSlot_only before i s
  have now : (captureSlot before i s).now = s.now := only .now (by decide)
  have entry : captureEntry (captureSlot before i s) before = captureEntry s before := by
    funext stale c
    have engine : captureEngine (captureSlot before i s) before c = captureEngine s before c := by
      unfold captureEngine
      split <;> simp only [only.engine_eq (by decide)]
    simp only [captureEntry, engine, only.chanSettings_eq (by decide), only.ring_eq (by decide),
      only.chanLines_eq (by decide)]
  rw [now, entry]

theorem captureEvent_slot (cause : CaptureCause) (j : SlotIdx) (s : State) :
    (captureEvent cause s).slot j =
      (s.slot j).onward (servedPhase cause s.now (captureEntry s cause.before)) := by
  rw [captureEvent_eq]
  refine forSlots_onward (read := fun s => (s.now, captureEntry s cause.before))
    (phase := fun r => servedPhase cause r.1 r.2) (fun i j s => ?_) (fun i s => ?_) j s
  · rcases (s.slot i).armed_or_not with ⟨sn, stale, due, body, armed⟩ | none
    · rw [armedSnap_of_armed body armed]
      by_cases served : serves cause sn.source = true
      · rw [Option.any_some, if_pos served, captureSlot_slot]
        split
        · rename_i here
          subst here
          rw [Slot.onward_of_armed body armed, Slot.onward_of_armed body armed]
          simp only [servedPhase, if_pos served, capturedNow]
        · rfl
      · rw [Option.any_some, if_neg served]
        split
        · rename_i here
          subst here
          rw [Slot.onward_of_armed body armed, servedPhase, if_neg served, ← armed, ← body]
        · rfl
    · rw [armedSnap_of_not_armed none]
      split
      · exact absurd ‹_› (by simp)
      · split
        · rename_i here
          subst here
          rw [Slot.onward_of_not_armed none]
        · rfl
  · split
    · exact captureSlot_reads _ i s
    · rfl

theorem serves_immediate (cause : CaptureCause) : serves cause .immediate = false := by cases cause <;> rfl

theorem captureEvent_queue (cause : CaptureCause) (q : Port) (s : State) :
    (captureEvent cause s).queue q = (s.queue q).toldOfSlots s q (readyNotice (serves cause) s) := by
  rw [captureEvent_eq]
  refine (forSlots_queue (read := State.now)
    (news := fun now i slot sn stale =>
      if serves cause sn.source then some (readyNews i slot.generation now sn stale) else none)
    (fun i j s other => ?_) (fun i s => ?_) (fun i q s => ?_) q s).trans ?_
  · split
    · rw [captureSlot_slot, if_neg other]
    · rfl
  · split
    · exact captureSlot_only _ i s .now (by decide)
    · rfl
  · rcases (s.slot i).armed_or_not with ⟨sn, stale, due, body, armed⟩ | none
    · rw [armedSnap_of_armed body armed, Slot.tell_of_armed body armed, Option.any_some]
      by_cases served : serves cause sn.source = true
      · have waits : sn.source ≠ .immediate := by
          intro immediate
          rw [immediate, serves_immediate] at served
          exact absurd served (by decide)
        rw [if_pos served, captureSlot_queue, Slot.tell_of_armed body armed, if_neg waits, if_pos served]
      · rw [if_neg served, if_neg served]
    · rw [armedSnap_of_not_armed none, Slot.tell_of_not_armed none]
      rfl
  · rfl

end Sys2Proof.Machine
end

section
/-! PROOFS. The snapshot store: the loss of sources, and what every step keeps of held counts and snapshots
(O55, O58). -/

namespace Sys2Proof.Machine

open Sys2Proof

/-! ### The loss of a source (R149) -/

/-- One slot when sources are lost: an ARMED snapshot whose source is lost for a cause expires, and any other is
treated by `rest`. -/
def loseSource (cause : SnapSource → Option Word) (rest : SlotIdx → State → State) (i : SlotIdx) (s : State) : State :=
  match s.armedSnap i with
  | none => s
  | some sn =>
    match cause sn.source with
    | some aux => expireSlot .sourceLost aux i s
    | none => rest i s

/-- What the loss of sources makes of an ARMED snapshot. -/
def lostPhase (cause : SnapSource → Option Word) (rest : Snapshot → List Chan → Option Tick → SnapPhase) :
    Snapshot → List Chan → Option Tick → SnapPhase :=
  fun sn stale due => if (cause sn.source).isSome = true then .expired .sourceLost else rest sn stale due

/-- The phase of a snapshot that is left as it is. -/
def unmoved : Snapshot → List Chan → Option Tick → SnapPhase := fun _ stale due => .armed stale due

theorem loseIndexSource_eq (c : Chan) (aux : Word) (s : State) :
    loseIndexSource c aux s =
      forSlots (loseSource (fun src => if src = .index c then some aux else none) fun _ s => s) s := by
  unfold loseIndexSource
  congr 1
  funext i s
  unfold loseSource
  cases s.armedSnap i with
  | none => rfl
  | some sn => by_cases here : sn.source = .index c <;> simp [here]

theorem loseLineSource_eq (old new : DeviceSettings) :
    loseLineSource old new = loseSource (fun src =>
      match src with
      | .line n => if tget old.capEdge n ≠ .off ∧ tget new.capEdge n = .off then some 1 else none
      | _ => none) fun _ s => s := by
  funext i s
  unfold loseLineSource loseSource
  cases s.armedSnap i with
  | none => rfl
  | some sn =>
    obtain ⟨_, _, source, _, _, _, _⟩ := sn
    cases source with
    | line n =>
      by_cases off : tget old.capEdge n ≠ .off ∧ tget new.capEdge n = .off
      · simp only [if_pos off]
      · simp only [if_neg off]
    | _ => rfl

/-- The INDEX snapshots of a channel that a reconfiguration to a record leaves without a source (R149). -/
def reconfigureCause (c : Chan) (new : ChanSettings) (src : SnapSource) : Option Word :=
  if src = .index c then
    if new.mode ≠ .quad then some 2 else if new.indexQuadrant = none then some 3 else none
  else none

theorem reconfigureSlot_eq (c : Chan) (new : ChanSettings) :
    reconfigureSlot c new = loseSource (reconfigureCause c new) (markStale c) := by
  funext i s
  unfold reconfigureSlot loseSource reconfigureCause
  cases s.armedSnap i with
  | none => rfl
  | some sn =>
    by_cases here : sn.source = .index c
    · by_cases mode : new.mode = .quad
      · by_cases none : new.indexQuadrant = none <;> simp [here, mode, none]
      · simp [here, mode]
    · simp [here]

section
variable {cause : SnapSource → Option Word} {rest : SlotIdx → State → State}
  {phase : Snapshot → List Chan → Option Tick → SnapPhase}

theorem loseSource_slot
    (own : ∀ i j s, (rest i s).slot j = if i = j then (s.slot j).onward phase else s.slot j)
    (i j : SlotIdx) (s : State) :
    (loseSource cause rest i s).slot j =
      if i = j then (s.slot j).onward (lostPhase cause phase) else s.slot j := by
  unfold loseSource
  rcases (s.slot i).armed_or_not with ⟨sn, stale, due, body, armed⟩ | none
  · rw [armedSnap_of_armed body armed]
    dsimp only
    split
    · rename_i aux lost
      rw [expireSlot_slot]
      split
      · rename_i here
        subst here
        rw [Slot.onward_of_armed body armed, Slot.onward_of_armed body armed]
        simp only [lostPhase, lost, Option.isSome_some, if_true]
      · rfl
    · rename_i kept
      rw [own]
      split
      · rename_i here
        subst here
        rw [Slot.onward_of_armed body armed, Slot.onward_of_armed body armed]
        simp only [lostPhase, kept, Option.isSome_none, Bool.false_eq_true, if_false]
      · rfl
  · rw [armedSnap_of_not_armed none]
    dsimp only
    split
    · rename_i here
      subst here
      exact (Slot.onward_of_not_armed none _).symm
    · rfl

theorem loseSource_queue (silent : ∀ i q s, (rest i s).queue q = s.queue q) (i : SlotIdx) (q : Port) (s : State) :
    (loseSource cause rest i s).queue q =
      (s.slot i).tell (fun sn _ => (cause sn.source).map fun aux =>
        expiredNews i (s.slot i).generation s.now .sourceLost aux) q (s.queue q) := by
  unfold loseSource
  rcases (s.slot i).armed_or_not with ⟨sn, stale, due, body, armed⟩ | none
  · rw [armedSnap_of_armed body armed, Slot.tell_of_armed body armed]
    dsimp only
    split
    · rename_i aux lost
      rw [expireSlot_queue, Slot.tell_of_armed body armed, lost]
      rfl
    · rename_i kept
      rw [silent, kept]
      rfl
  · rw [armedSnap_of_not_armed none, Slot.tell_of_not_armed none]

/-- The loss of sources, slot by slot. -/
theorem forSlots_loseSource_slot
    (own : ∀ i j s, (rest i s).slot j = if i = j then (s.slot j).onward phase else s.slot j)
    (j : SlotIdx) (s : State) :
    (forSlots (loseSource cause rest) s).slot j = (s.slot j).onward (lostPhase cause phase) :=
  forSlots_onward (read := fun _ => ()) (phase := fun _ => lostPhase cause phase)
    (fun i j s => loseSource_slot own i j s) (fun _ _ => rfl) j s

theorem forSlots_loseSource_queue
    (own : ∀ i j s, (rest i s).slot j = if i = j then (s.slot j).onward phase else s.slot j)
    (silent : ∀ i q s, (rest i s).queue q = s.queue q) (still : ∀ i s, (rest i s).now = s.now)
    (q : Port) (s : State) :
    (forSlots (loseSource cause rest) s).queue q = (s.queue q).toldOfSlots s q (lostNotice cause s) := by
  refine (forSlots_queue (read := State.now)
    (news := fun now i slot sn _ => (cause sn.source).map fun aux =>
      expiredNews i slot.generation now .sourceLost aux)
    (fun i j s other => ?_) (fun i s => ?_) (fun i q s => loseSource_queue silent i q s) q s).trans rfl
  · rw [loseSource_slot own, if_neg other]
  · show (loseSource cause rest i s).now = s.now
    unfold loseSource
    split
    · rfl
    · split
      · exact expireSlot_only _ _ _ _ .now (by decide)
      · exact still i s

end

theorem unmoved_slot (i j : SlotIdx) (s : State) :
    s.slot j = if i = j then (s.slot j).onward unmoved else s.slot j := by
  rw [show (s.slot j).onward unmoved = s.slot j from Slot.onward_same _, ite_self]

theorem loseIndexSource_slot (c : Chan) (aux : Word) (j : SlotIdx) (s : State) :
    (loseIndexSource c aux s).slot j =
      (s.slot j).onward (lostPhase (fun src => if src = .index c then some aux else none) unmoved) := by
  rw [loseIndexSource_eq, forSlots_loseSource_slot unmoved_slot]

theorem loseIndexSource_queue (c : Chan) (aux : Word) (q : Port) (s : State) :
    (loseIndexSource c aux s).queue q =
      (s.queue q).toldOfSlots s q (lostNotice (fun src => if src = .index c then some aux else none) s) := by
  rw [loseIndexSource_eq, forSlots_loseSource_queue unmoved_slot (fun _ _ _ => rfl) fun _ _ => rfl]

theorem forSlots_reconfigureSlot_slot (c : Chan) (new : ChanSettings) (j : SlotIdx) (s : State) :
    (forSlots (reconfigureSlot c new) s).slot j =
      (s.slot j).onward (lostPhase (reconfigureCause c new) (staled c)) := by
  rw [reconfigureSlot_eq, forSlots_loseSource_slot (markStale_slot c)]

theorem forSlots_reconfigureSlot_queue (c : Chan) (new : ChanSettings) (q : Port) (s : State) :
    (forSlots (reconfigureSlot c new) s).queue q =
      (s.queue q).toldOfSlots s q (lostNotice (reconfigureCause c new) s) := by
  rw [reconfigureSlot_eq, forSlots_loseSource_queue (markStale_slot c)
    (fun i q s => (markStale_only c i s).queue_eq (by decide) q) fun i s => markStale_only c i s .now (by decide)]

/-- The LINE snapshots that a SET_DEVICE leaves without a source (R17, R149). -/
def lineCause (old new : DeviceSettings) (src : SnapSource) : Option Word :=
  match src with
  | .line n => if tget old.capEdge n ≠ .off ∧ tget new.capEdge n = .off then some 1 else none
  | _ => none

theorem forSlots_loseLineSource_slot (old new : DeviceSettings) (j : SlotIdx) (s : State) :
    (forSlots (loseLineSource old new) s).slot j = (s.slot j).onward (lostPhase (lineCause old new) unmoved) := by
  rw [loseLineSource_eq, forSlots_loseSource_slot unmoved_slot]
  rfl

theorem forSlots_loseLineSource_queue (old new : DeviceSettings) (q : Port) (s : State) :
    (forSlots (loseLineSource old new) s).queue q =
      (s.queue q).toldOfSlots s q (lostNotice (lineCause old new) s) := by
  rw [loseLineSource_eq, forSlots_loseSource_queue unmoved_slot (fun _ _ _ => rfl) fun _ _ => rfl]
  rfl

/-! ### What a settings command makes of the store -/

/-- All that follows the engine's part of a reconfiguration. -/
theorem reconfigure_after (c : Chan) (new : ChanSettings) (s : State) :
    SameExcept [.rings, .views, .slots, .queues, .intLine]
      (((s.setChanSettings c new).setChanLines c (restartChanLines (s.chanLines c))).setEngine c
        (enterMode new (restartChanLines (s.chanLines c)) (s.engine c))) (reconfigure c new s) :=
  (((emptyRing_only c _).mono (by decide)).trans
    ((SameExcept.forPorts (fun p u => reconfigureView_only _ _ _ _ p u) _).mono (by decide))).trans
    ((SameExcept.forSlots (fun i u => reconfigureSlot_only _ _ i u) _).mono (by decide))

theorem reconfigure_chanSettings (c d : Chan) (new : ChanSettings) (s : State) :
    (reconfigure c new s).chanSettings d = if c = d then new else s.chanSettings d := by
  rw [(reconfigure_after c new s).chanSettings_eq (by decide)]
  exact State.chanSettings_setChanSettings s c d new

theorem reconfigure_slot (c : Chan) (new : ChanSettings) (j : SlotIdx) (s : State) :
    (reconfigure c new s).slot j = (s.slot j).onward (lostPhase (reconfigureCause c new) (staled c)) := by
  have before : SameExcept [.settings, .lines, .engines, .rings, .views, .queues, .intLine] s
      (forPorts (fun p => reconfigureView c (s.chanSettings c).mode new.mode (s.unread p c) p)
        (emptyRing c (((s.setChanSettings c new).setChanLines c (restartChanLines (s.chanLines c))).setEngine c
          (enterMode new (restartChanLines (s.chanLines c)) (s.engine c))))) :=
    (((((setChanSettings_only s c new).mono (by decide)).trans ((setChanLines_only _ c _).mono (by decide))).trans
      ((setEngine_only _ c _).mono (by decide))).trans ((emptyRing_only c _).mono (by decide))).trans
      ((SameExcept.forPorts (fun p u => reconfigureView_only _ _ _ _ p u) _).mono (by decide))
  exact (forSlots_reconfigureSlot_slot c new j _).trans (congrArg _ (before.slot_eq (by decide) j))

theorem tuningChange_chanSettings (c d : Chan) (new : ChanSettings) (s : State) :
    (tuningChange c new s).chanSettings d = if c = d then new else s.chanSettings d := by
  have stored : SameExcept [.engines, .slots, .queues, .intLine] (s.setChanSettings c new) (tuningChange c new s) := by
    unfold tuningChange
    dsimp only
    split
    · split
      · exact (setEngine_only _ _ _).andThen (loseIndexSource_only _ _ _) (by decide)
      · split
        · exact (setEngine_only _ _ _).mono (by decide)
        · exact .refl _ _
    · exact .refl _ _
  rw [stored.chanSettings_eq (by decide)]
  exact State.chanSettings_setChanSettings s c d new

/-- The INDEX snapshots that a quadrant set to NONE leaves without a source (R122, R149). -/
def tuningCause (c : Chan) (old new : ChanSettings) (src : SnapSource) : Option Word :=
  if new.mode = .quad ∧ old.indexQuadrant ≠ none ∧ new.indexQuadrant = none ∧ src = .index c then some 3 else none

theorem lostPhase_none : lostPhase (fun _ => none) unmoved = unmoved := rfl

theorem tuningChange_slot (c : Chan) (new : ChanSettings) (j : SlotIdx) (s : State) :
    (tuningChange c new s).slot j =
      (s.slot j).onward (lostPhase (tuningCause c (s.chanSettings c) new) unmoved) := by
  have stays {cause : SnapSource → Option Word} (none : ∀ src, cause src = none) :
      (s.slot j).onward (lostPhase cause unmoved) = s.slot j := by
    rw [show cause = fun _ => Option.none from funext none, lostPhase_none]
    exact Slot.onward_same _
  unfold tuningChange
  dsimp only
  by_cases quad : new.mode = .quad
  · rw [if_pos quad]
    by_cases lost : (s.chanSettings c).indexQuadrant ≠ none ∧ new.indexQuadrant = none
    · rw [if_pos lost, loseIndexSource_slot]
      have cause : tuningCause c (s.chanSettings c) new = fun src => if src = .index c then some 3 else none := by
        funext src
        simp only [tuningCause, quad, lost.1, lost.2, ne_eq, not_false_eq_true, true_and]
      rw [cause]
      rfl
    · have kept : ∀ src, tuningCause c (s.chanSettings c) new src = none := fun src =>
        if_neg fun h => lost ⟨h.2.1, h.2.2.1⟩
      rw [if_neg lost, stays kept]
      split <;> rfl
  · have kept : ∀ src, tuningCause c (s.chanSettings c) new src = none := fun src => if_neg fun h => quad h.1
    rw [if_neg quad, stays kept]
    rfl

theorem storeDevice_slot (new : DeviceSettings) (j : SlotIdx) (s : State) :
    (storeDevice new s).slot j = (s.slot j).onward (lostPhase (lineCause s.device new) unmoved) := by
  have counts : ∀ u, SameExcept [.caps] u
      (if s.device.lineFilterStep ≠ new.lineFilterStep then restartCap 1 (restartCap 0 u) else u) :=
    fun u => SameExcept.ite ((restartCap_only 0 u).trans (restartCap_only 1 _)) (SameExcept.refl _ _)
  have leases : SameExcept [.device, .claims] s
      (if s.device.leasePeriod ≠ new.leasePeriod then forResources relength (s.setDevice new)
        else s.setDevice new) :=
    ((setDevice_only s new).mono (by decide)).trans
      (SameExcept.ite ((SameExcept.forResources relength_only _).mono (by decide)) (SameExcept.refl _ _))
  unfold storeDevice
  exact ((counts _).slot_eq (by decide) j).trans ((forSlots_loseLineSource_slot _ _ j _).trans
    (by rw [leases.slot_eq (by decide)]))

/-! ### SNAP_ARM (R139, R140) -/

/-- Whether an arming captures at once: IMMEDIATE, or a TIME target at or before now (R140). -/
def SnapSource.atOnce (now : Tick) : SnapSource → Bool
  | .immediate => true
  | .time t => targetPassed now t
  | _ => false

/-- The snapshot as an arming leaves it (R139, R140). -/
def armedBy (p : Port) (cs : List Chan) (src : SnapSource) (limit : Half) (s : State) : Snapshot :=
  { owner := p, channels := cs, source := src, armTime := s.now, armLimit := limit
    late := src.atOnce s.now && src != .immediate
    phase := if src.atOnce s.now then .captured s.now (cs.map (captureEntry s none []))
      else .armed [] (s.newArmLimit limit) }

/-- The snapshot before its source acts. -/
def arming (p : Port) (cs : List Chan) (src : SnapSource) (limit : Half) (s : State) : Snapshot :=
  { armedBy p cs src limit s with
    phase := .armed [] (if src.atOnce s.now then none else s.newArmLimit limit) }

theorem armSnapshot_eq (p : Port) (cs : List Chan) (src : SnapSource) (limit : Half) (i : SlotIdx) (s : State) :
    armSnapshot p cs src limit i s =
      if src.atOnce s.now then captureSlot none i (allocate i (arming p cs src limit s) s)
      else allocate i (arming p cs src limit s) s := by
  cases src with
  | time t =>
    have waits : (SnapSource.time t != .immediate) = true := bne_iff_ne.mpr (by simp)
    simp only [armSnapshot, arming, armedBy, SnapSource.atOnce, waits, Bool.and_true]
    rfl
  | _ => rfl

theorem allocate_slot (i j : SlotIdx) (sn : Snapshot) (s : State) :
    (allocate i sn s).slot j =
      if i = j then { generation := (s.slot i).generation + 1, body := some sn } else s.slot j :=
  State.slot_setSlot s i j _

theorem captureEntry_of_only {fs : List Field} {s t : State} (h : SameExcept fs s t) (engines : Field.engines ∉ fs)
    (settings : Field.settings ∉ fs) (rings : Field.rings ∉ fs) (lines : Field.lines ∉ fs)
    (before : Option (Chan × Engine)) : captureEntry t before = captureEntry s before := by
  funext stale c
  have engine : captureEngine t before c = captureEngine s before c := by
    unfold captureEngine
    split <;> simp only [h.engine_eq engines]
  simp only [captureEntry, engine, h.chanSettings_eq settings, h.ring_eq rings, h.chanLines_eq lines]

theorem capturedNow_allocate (i : SlotIdx) (sn : Snapshot) (s : State) :
    capturedNow (allocate i sn s) none = capturedNow s none := by
  have only := allocate_only i sn s
  have still : (allocate i sn s).now = s.now := only .now (by decide)
  unfold capturedNow
  rw [still, captureEntry_of_only only (by decide) (by decide) (by decide) (by decide)]

theorem armSnapshot_slot (p : Port) (cs : List Chan) (src : SnapSource) (limit : Half) (i j : SlotIdx) (s : State) :
    (armSnapshot p cs src limit i s).slot j =
      if i = j then { generation := (s.slot i).generation + 1, body := some (armedBy p cs src limit s) }
      else s.slot j := by
  rw [armSnapshot_eq]
  by_cases now : src.atOnce s.now = true
  · rw [if_pos now, captureSlot_slot, allocate_slot]
    by_cases here : i = j
    · subst here
      rw [if_pos rfl, if_pos rfl, Slot.onward_of_armed rfl rfl, if_pos rfl]
      rw [capturedNow_allocate]
      simp only [capturedNow, arming, armedBy, now, if_true]
    · rw [if_neg here, if_neg here, if_neg here]
  · rw [if_neg now, allocate_slot]
    simp only [arming, armedBy, now, Bool.false_eq_true, if_false]

theorem armSnapshot_heldCount (p q : Port) (cs : List Chan) (src : SnapSource) (limit : Half) (i : SlotIdx)
    (s : State) :
    (armSnapshot p cs src limit i s).heldCount q = if p = q then s.heldCount q + 1 else s.heldCount q := by
  have held : (allocate i (arming p cs src limit s) s).heldCount q =
      if p = q then s.heldCount q + 1 else s.heldCount q := by
    show ((s.setSlot i _).setHeldCount p (s.heldCount p + 1)).heldCount q = _
    rw [State.heldCount_setHeldCount]
    by_cases own : p = q
    · subst own; rfl
    · rw [if_neg own, if_neg own]; rfl
  rw [armSnapshot_eq]
  split
  · rw [(captureSlot_only _ _ _).heldCount_eq (by decide), held]
  · exact held

theorem lowestFree_spec {s : State} {i : SlotIdx} : s.lowestFree = some i ↔ LowestFree i s := by
  unfold State.lowestFree LowestFree
  rw [List.find?_eq_some_iff_getElem]
  constructor
  · rintro ⟨free, k, hk, rfl, before⟩
    refine ⟨by simpa using free, fun j lt => ?_⟩
    simpa [Option.isSome_iff_ne_none] using before j.val (by simpa [Fin.lt_def] using lt)
  · rintro ⟨free, before⟩
    refine ⟨by simpa using free, i.val, by simp, by simp, fun j lt => ?_⟩
    simpa [Option.isSome_iff_ne_none] using before ⟨j, by omega⟩ lt

theorem snapArmCheck_ok {p : Port} {pl : List Byte} {s : State} {cs : List Chan} {src : SnapSource} {i : SlotIdx}
    (h : snapArmCheck p pl s = .ok (cs, src, i)) :
    chanListOf pl = some cs ∧ snapSourceOf pl s = .ok src ∧ s.heldCount p < s.device.quota.toNat ∧
      LowestFree i s := by
  unfold snapArmCheck at h
  split at h
  · cases h
  · rename_i list
    split at h
    · cases h
    · rename_i source
      split at h
      · cases h
      · rename_i room
        split at h
        · cases h
        · rename_i free
          cases h
          exact ⟨list, source, by omega, lowestFree_spec.mp free⟩

/-! ### Held counts (R137) -/

theorem ownedCount_eq_of_owners {s t : State} {p : Port}
    (owners : ∀ i, ownedBy p (t.slot i) = ownedBy p (s.slot i)) : t.ownedCount p = s.ownedCount p := by
  simp only [State.ownedCount, State.slotsOf, owners]

/-- A test that one member of a list without repetitions passes, and another that agrees with it but there. -/
theorem length_filter_of_one_less {α : Type} {f g : α → Bool} {a : α} {l : List α} (nodup : l.Nodup) (mem : a ∈ l)
    (passes : f a = true) (fails : g a = false) (agree : ∀ b, b ≠ a → g b = f b) :
    (l.filter f).length = (l.filter g).length + 1 := by
  induction l with
  | nil => cases mem
  | cons b l ih =>
    obtain ⟨fresh, nodup⟩ := List.nodup_cons.mp nodup
    by_cases here : b = a
    · subst here
      have rest : l.filter g = l.filter f := List.filter_congr fun c mem => agree c fun e => fresh (e ▸ mem)
      simp [passes, fails, rest]
    · have tail : a ∈ l := (List.mem_cons.mp mem).resolve_left (Ne.symm here)
      have step := ih nodup tail
      by_cases test : f b = true
      · simp [agree b here, test, step]
      · simp [agree b here, test, step]

/-- A slot more or less moves the count of its owner by one. -/
theorem ownedCount_of_one_less {s t : State} {p : Port} {i : SlotIdx} (owns : ownedBy p (s.slot i) = true)
    (freed : ownedBy p (t.slot i) = false) (others : ∀ j, j ≠ i → t.slot j = s.slot j) :
    s.ownedCount p = t.ownedCount p + 1 :=
  length_filter_of_one_less (List.nodup_finRange 24) (List.mem_finRange i) owns freed
    fun j other => by rw [others j other]

theorem heldInv_of_owners {s t : State} (held : ∀ p, t.heldCount p = s.heldCount p)
    (owners : ∀ p i, ownedBy p (t.slot i) = ownedBy p (s.slot i)) (inv : HeldInv s) : HeldInv t := fun p => by
  rw [held, ownedCount_eq_of_owners (owners p)]
  exact inv p

/-- An effect on the store that leads ARMED snapshots on, and no more, keeps the held counts. -/
theorem heldInv_of_onward {fs : List Field} {s t : State} (h : SameExcept fs s t) (held : Field.held ∉ fs)
    {phase : Snapshot → List Chan → Option Tick → SnapPhase} (slots : ∀ i, t.slot i = (s.slot i).onward phase)
    (inv : HeldInv s) : HeldInv t :=
  heldInv_of_owners (h.heldCount_eq held) (fun p i => by rw [slots, ownedBy_onward]) inv

theorem heldInv_of_only {fs : List Field} {s t : State} (h : SameExcept fs s t) (slots : Field.slots ∉ fs)
    (held : Field.held ∉ fs) (inv : HeldInv s) : HeldInv t :=
  heldInv_of_owners (h.heldCount_eq held) (fun p i => by rw [h.slot_eq slots]) inv

theorem freeSlot_heldCount (i : SlotIdx) (p : Port) (s : State) :
    (freeSlot i s).heldCount p =
      if ownedBy p (s.slot i) = true then s.heldCount p - 1 else s.heldCount p := by
  unfold freeSlot ownedBy
  dsimp only
  split
  · rename_i free
    simp [free]
  · rename_i sn body
    rw [State.heldCount_setHeldCount, body]
    by_cases own : sn.owner = p
    · subst own; simp
    · simp [own]

theorem freeSlot_keeps_heldInv (i : SlotIdx) {s : State} (inv : HeldInv s) : HeldInv (freeSlot i s) := fun p => by
  have others : ∀ j, j ≠ i → (freeSlot i s).slot j = s.slot j := fun j other => by
    rw [freeSlot_slot, if_neg other.symm]
  have freed : ownedBy p ((freeSlot i s).slot i) = false := by rw [freeSlot_slot, if_pos rfl]; rfl
  rw [freeSlot_heldCount]
  split
  · rename_i owns
    rw [inv p, ownedCount_of_one_less owns freed others]
    rfl
  · rename_i owns
    rw [inv p]
    refine (ownedCount_eq_of_owners fun j => ?_).symm
    by_cases here : j = i
    · subst here
      rw [freed]
      simpa using owns
    · rw [others j here]

theorem armSnapshot_keeps_heldInv {p : Port} {cs : List Chan} {src : SnapSource} {limit : Half} {i : SlotIdx}
    {s : State} (free : (s.slot i).body = none) (inv : HeldInv s) : HeldInv (armSnapshot p cs src limit i s) := by
  intro q
  have others : ∀ j, j ≠ i → s.slot j = (armSnapshot p cs src limit i s).slot j := fun j other => by
    rw [armSnapshot_slot, if_neg other.symm]
  have before : ownedBy q (s.slot i) = false := by simp [ownedBy, free]
  have after : ownedBy q ((armSnapshot p cs src limit i s).slot i) = (p == q) := by
    rw [armSnapshot_slot, if_pos rfl]
    rfl
  rw [armSnapshot_heldCount, inv q]
  split
  · rename_i own
    exact (ownedCount_of_one_less (by rw [after]; simpa using own) before others).symm
  · rename_i other
    refine (ownedCount_eq_of_owners fun j => ?_).symm
    by_cases here : j = i
    · subst here
      rw [after, before]
      simpa using other
    · rw [others j here]

/-- A law that captures keep and that reads nothing else a sample can write, every sample keeps. -/
theorem takeSample_keeps {P : State → Prop}
    (frame : ∀ {fs : List Field} {s t : State}, SameExcept fs s t → Field.slots ∉ fs → Field.held ∉ fs →
      Field.device ∉ fs → Field.settings ∉ fs → P s → P t)
    (captures : ∀ cause {s : State}, P s → P (captureEvent cause s)) (u : Sample) {s : State} (inv : P s) :
    P (takeSample u s) := by
  have qualified (c : Chan) {s : State} (inv : P s) : P (qualifiedIndex c s) :=
    have pushed : P (pushEntry c .index (s.engine c).position false (s.engine c).homingArmed s) :=
      frame (pushEntry_only c _ _ _ _ s) (by decide) (by decide) (by decide) (by decide) inv
    captures _ (ite_keeps (fun _ => frame (homingLoad_only c _) (by decide) (by decide) (by decide) (by decide)
      pushed) fun _ => pushed)
  have evaluated (c : Chan) {s : State} (inv : P s) : P (evalIndex c s) :=
    have set (x : Engine) : P (s.setEngine c x) :=
      frame (setEngine_only s c x) (by decide) (by decide) (by decide) (by decide) inv
    ite_keeps (fun _ => qualified c (set _)) fun _ => set _
  have decoded (c : Chan) (r : Report) {s : State} (inv : P s) : P (if r.edgeA && r.edgeB then phaseError c s
      else if r.edgeA || r.edgeB then legalTransition c s else s) :=
    ite_keeps (fun _ => frame (phaseError_only c s) (by decide) (by decide) (by decide) (by decide) inv) fun _ =>
      ite_keeps (fun _ => frame (legalTransition_only c s) (by decide) (by decide) (by decide) (by decide) inv)
        fun _ => inv
  have reported (c : Chan) (r : Report) {s : State} (inv : P s) : P (takeReport c r s) := by
    unfold takeReport
    split
    · exact inv
    · have faulted := frame (glitchFaults_only c r.glitchA r.glitchB
        (r.glitchZ && (s.chanSettings c).indexQuadrant.isSome) s) (by decide) (by decide) (by decide) (by decide) inv
      exact ite_keeps (fun _ => evaluated c (decoded c r faulted)) fun _ => decoded c r faulted
    · exact frame (reportTally_only c r s) (by decide) (by decide) (by decide) (by decide) inv
    · exact frame (reportSpan_only c r s) (by decide) (by decide) (by decide) (by decide) inv
    · exact frame (reportWidth_only c r s) (by decide) (by decide) (by decide) (by decide) inv
  cases u with
  | chan c v =>
    have conditioned (x : ChanLines) : P (s.setChanLines c x) :=
      frame (setChanLines_only s c x) (by decide) (by decide) (by decide) (by decide) inv
    exact ite_keeps (fun _ => reported c _ (conditioned _)) fun _ => conditioned _
  | cap n v =>
    have conditioned (x : CapConditioner) : P (s.setCap n x) :=
      frame (setCap_only s n x) (by decide) (by decide) (by decide) (by decide) inv
    exact ite_keeps (fun _ => captures _ (conditioned _)) fun _ => conditioned _

theorem captureEvent_keeps_heldInv (cause : CaptureCause) {s : State} (inv : HeldInv s) :
    HeldInv (captureEvent cause s) :=
  heldInv_of_onward (captureEvent_only cause s) (by decide) (fun i => captureEvent_slot cause i s) inv

theorem expireSlot_keeps_heldInv (reason : ExpiryReason) (aux : Word) (i : SlotIdx) {s : State} (inv : HeldInv s) :
    HeldInv (expireSlot reason aux i s) :=
  heldInv_of_owners ((expireSlot_only reason aux i s).heldCount_eq (by decide)) (fun p j => by
    rw [expireSlot_slot]
    split
    · exact ownedBy_onward p _ _
    · rfl) inv

theorem storeChannel_keeps_heldInv (c : Chan) (new : ChanSettings) {s : State} (inv : HeldInv s) :
    HeldInv (storeChannel c new s).1 := by
  unfold storeChannel
  split <;> dsimp only
  · exact heldInv_of_onward (reconfigure_only c new s) (by decide) (fun i => reconfigure_slot c new i s) inv
  · exact heldInv_of_onward (tuningChange_only c new s) (by decide) (fun i => tuningChange_slot c new i s) inv

/-- A law that the freeing of a slot keeps and that reads nothing else PORT_RESET can write, PORT_RESET keeps. -/
theorem portResetBody_keeps {P : State → Prop}
    (frame : ∀ {fs : List Field} {s t : State}, SameExcept fs s t → Field.slots ∉ fs → Field.held ∉ fs →
      Field.device ∉ fs → Field.settings ∉ fs → P s → P t)
    (frees : ∀ i {s : State}, P s → P (freeSlot i s)) (p : Port) (pl : List Byte) {s : State} (inv : P s) :
    P (portResetBody p pl s).1 := by
  have held : P (forResources (dropHolding p) s) :=
    frame (SameExcept.forResources (dropHolding_only p) s) (by decide) (by decide) (by decide) (by decide) inv
  have claims : P (forResources (dropWaiting p) (forResources (dropHolding p) s)) :=
    frame (SameExcept.forResources (dropWaiting_only p) _) (by decide) (by decide) (by decide) (by decide) held
  have slots : P (forSlots (dropSlot p) (forResources (dropWaiting p) (forResources (dropHolding p) s))) :=
    forSlots_keeps (fun i _ inv => ite_keeps (fun _ => frees i inv) fun _ => inv) claims
  have views := frame (SameExcept.forChans (dropView_only p) _) (by decide) (by decide) (by decide) (by decide) slots
  exact frame (dropQueue_only p _) (by decide) (by decide) (by decide) (by decide) views

theorem heldInv_of_reset {s : State} (slots : s.slots = State.reset.slots) (held : s.held = State.reset.held) :
    HeldInv s := fun p => by
  simp [State.heldCount, held, State.ownedCount, State.slotsOf, State.slot, slots, State.reset, ownedBy, Slot.reset]

theorem move_keeps_heldInv {fs : List Field} {s t : State} (m : Move fs s t) (inv : HeldInv s) : HeldInv t := by
  by_cases apart : Field.slots ∉ fs ∧ Field.held ∉ fs
  · exact heldInv_of_only m.only apart.1 apart.2 inv
  · cases m with
    | startReset => exact heldInv_of_reset rfl rfl
    | sample =>
      exact takeSample_keeps (fun h slots held _ _ => heldInv_of_only h slots held)
        (fun cause _ => captureEvent_keeps_heldInv cause) _ inv
    | limitEnd => exact expireSlot_keeps_heldInv _ _ _ inv
    | target => exact captureEvent_keeps_heldInv _ inv
    | setChannel => exact storeChannel_keeps_heldInv _ _ inv
    | setDevice =>
      exact heldInv_of_onward (storeDevice_only _ s) (by decide) (fun i => storeDevice_slot _ i s) inv
    | arm _ p pl cs src limit i _ passed =>
      obtain ⟨-, -, -, lowest⟩ := snapArmCheck_ok passed
      exact armSnapshot_keeps_heldInv lowest.1 inv
    | free => exact freeSlot_keeps_heldInv _ inv
    | portReset =>
      exact portResetBody_keeps (fun h slots held _ _ => heldInv_of_only h slots held)
        (fun i _ => freeSlot_keeps_heldInv i) _ _ inv
    | deviceReset => exact heldInv_of_reset rfl rfl
    | _ => exact absurd (by decide) apart

/-- Settles O55: an arming takes a FREE slot, a freed slot leaves its owner's count, and all else leads snapshots on
under the owners they have. -/
theorem stepKeepsHeldInv : Obligations.StepKeepsHeldInv := by
  unfold Obligations.StepKeepsHeldInv
  intro s t inv h
  exact (step_moves h).keeps move_keeps_heldInv inv

end Sys2Proof.Machine
end

section
/-! PROOFS. The snapshot store: every step keeps every ARMED snapshot on a source that can fire and every capture
complete (O58). -/

namespace Sys2Proof.Machine

open Sys2Proof

/-! ### Channel lists (R138) -/

theorem ascending_iff (cs : List Chan) : ascending cs = true ↔ cs.Pairwise (· < ·) := by
  induction cs with
  | nil => simp [ascending]
  | cons c cs ih =>
    cases cs with
    | nil => simp [ascending]
    | cons d cs =>
      rw [ascending, Bool.and_eq_true, decide_eq_true_iff, ih, List.pairwise_cons (a := c)]
      refine and_congr_left fun rest => ⟨fun lt e mem => ?_, fun all => all d List.mem_cons_self⟩
      rcases List.mem_cons.mp mem with rfl | later
      · exact lt
      · exact lt.trans ((List.pairwise_cons.mp rest).1 e later)

theorem finOf_eq_some {n : Nat} (bound : n ≤ 256) {b : Byte} {i : Fin n} : finOf n b = some i ↔ b = byteOf i.val := by
  constructor
  · intro h
    unfold finOf at h
    split at h
    · cases h
      simp [byteOf]
    · cases h
  · rintro rfl
    exact finOf_byteOf_val bound i

theorem chansOf_eq_some {bs : List Byte} {cs : List Chan} :
    chansOf bs = some cs ↔ bs = cs.map (fun c => byteOf c.val) := by
  induction bs generalizing cs with
  | nil => cases cs <;> simp [chansOf]
  | cons b bs ih =>
    unfold chansOf
    cases first : finOf 8 b with
    | none =>
      refine iff_of_false (by simp) fun h => ?_
      cases cs with
      | nil => cases h
      | cons c cs =>
        rw [(List.cons.inj h).1, finOf_byteOf] at first
        cases first
    | some c =>
      have spelt : b = byteOf c.val := (finOf_eq_some (by decide)).mp first
      cases later : chansOf bs with
      | none =>
        refine iff_of_false (by simp) fun h => ?_
        cases cs with
        | nil => cases h
        | cons d cs => exact absurd (later.symm.trans (ih.mpr (List.cons.inj h).2)) (by simp)
      | some ds =>
        have rest := ih.mp later
        constructor
        · intro h
          cases h
          rw [List.map_cons, ← spelt, ← rest]
        · intro h
          cases cs with
          | nil => cases h
          | cons d cs =>
            obtain ⟨head, tail⟩ := List.cons.inj h
            have same : c = d := Option.some.inj ((finOf_byteOf c).symm.trans (by rw [← spelt, head, finOf_byteOf]))
            have list : ds = cs := Option.some.inj (later.symm.trans (ih.mpr tail))
            rw [same, list]

/-- The channel list of a SNAP_ARM payload of the accepted length is the one it spells (R138). -/
theorem chanListOf_eq_some {pl : List Byte} (len : pl.length = 19) {cs : List Chan} :
    chanListOf pl = some cs ↔ ListsChannels pl cs := by
  unfold chanListOf ListsChannels
  dsimp only
  generalize (byteAt pl 0).toNat = n
  have whole : n ≤ 8 → ((pl.drop 1).take n).length = n := fun le => by
    rw [List.length_take, List.length_drop]
    omega
  constructor
  · intro h
    split at h
    · rename_i few
      split at h
      · rename_i ds spelt
        split at h
        · rename_i order
          cases h
          have bytes := chansOf_eq_some.mp spelt
          have count : cs.length = n := by
            have := congrArg List.length bytes
            rw [whole few.2, List.length_map] at this
            exact this.symm
          exact ⟨few.1, few.2, count, by rw [count]; exact bytes, (ascending_iff cs).mp order⟩
        · cases h
      · cases h
    · cases h
  · rintro ⟨least, most, count, bytes, order⟩
    rw [if_pos ⟨least, most⟩, ← count, chansOf_eq_some.mpr bytes]
    exact if_pos ((ascending_iff cs).mpr order)

/-! ### The law of one snapshot (R135, R138, R143, R149) -/

/-- A source that can still fire under the settings in force (R138, R149). -/
def SnapSource.CanFire (device : DeviceSettings) (settings : Chan → ChanSettings) : SnapSource → Prop
  | .immediate => False
  | .line n => tget device.capEdge n ≠ .off
  | .index c => (settings c).mode = .quad ∧ (settings c).indexQuadrant ≠ none
  | .time _ => True

/-- The law of one snapshot, with the sources that can fire. -/
def Snapshot.Lawful (fires : SnapSource → Prop) (sn : Snapshot) : Prop :=
  1 ≤ sn.channels.length ∧ sn.channels.length ≤ 8 ∧ ascending sn.channels = true ∧
    (sn.late = true → (∃ t, sn.source = .time t) ∧ ∃ t es, sn.phase = .captured t es) ∧
    match sn.phase with
    | .armed stale due => (∀ c ∈ stale, c ∈ sn.channels) ∧ (due.isSome = true → sn.armLimit ≠ 0) ∧ fires sn.source
    | .captured _ es => es.map (·.channel) = sn.channels
    | .expired _ => sn.source ≠ .immediate

/-- The sources that can fire in a state. -/
def State.fires (s : State) : SnapSource → Prop := SnapSource.CanFire s.device s.chanSettings

theorem snapInv_iff (s : State) : SnapInv s ↔ ∀ i sn, (s.slot i).body = some sn → sn.Lawful s.fires := by
  refine forall_congr' fun i => forall_congr' fun sn => imp_congr_right fun _ => ?_
  unfold Snapshot.Lawful
  refine and_congr_right fun _ => and_congr_right fun _ => and_congr_right fun _ => and_congr_right fun _ => ?_
  cases sn.phase with
  | armed stale due =>
    refine and_congr_right fun _ => and_congr_right fun _ => ?_
    unfold State.fires
    cases sn.source <;> exact Iff.rfl
  | captured => exact Iff.rfl
  | expired => exact Iff.rfl

section
variable {fires fires' : SnapSource → Prop} {sn : Snapshot} {stale : List Chan} {due : Option Tick}

theorem Snapshot.Lawful.not_late (law : sn.Lawful fires) (armed : sn.phase = .armed stale due) : sn.late = false := by
  obtain ⟨-, -, -, late, -⟩ := law
  cases h : sn.late with
  | false => rfl
  | true =>
    obtain ⟨-, t, es, captured⟩ := late h
    rw [armed] at captured
    cases captured

theorem Snapshot.Lawful.armed (law : sn.Lawful fires) (armed : sn.phase = .armed stale due) :
    (∀ c ∈ stale, c ∈ sn.channels) ∧ (due.isSome = true → sn.armLimit ≠ 0) ∧ fires sn.source := by
  obtain ⟨-, -, -, -, law⟩ := law
  rwa [armed] at law

/-- An ARMED snapshot led on to a phase that keeps its part of the law. -/
theorem Snapshot.Lawful.led (law : sn.Lawful fires) (armed : sn.phase = .armed stale due) {phase : SnapPhase}
    (part : match phase with
      | .armed stale due =>
        (∀ c ∈ stale, c ∈ sn.channels) ∧ (due.isSome = true → sn.armLimit ≠ 0) ∧ fires' sn.source
      | .captured _ es => es.map (·.channel) = sn.channels
      | .expired _ => sn.source ≠ .immediate) :
    Snapshot.Lawful fires' { sn with phase := phase } := by
  have clear := law.not_late armed
  obtain ⟨least, most, order, -, -⟩ := law
  exact ⟨least, most, order, fun late => absurd (clear.symm.trans late) (by decide), part⟩

/-- The law of a snapshot that is not ARMED does not ask what can fire. -/
theorem Snapshot.Lawful.any_fires (law : sn.Lawful fires) (none : ∀ stale due, sn.phase ≠ .armed stale due) :
    sn.Lawful fires' := by
  obtain ⟨least, most, order, late, part⟩ := law
  refine ⟨least, most, order, late, ?_⟩
  cases phase : sn.phase with
  | armed stale due => exact absurd phase (none stale due)
  | captured t es => rwa [phase] at part
  | expired reason => rwa [phase] at part

end

theorem snapInv_of_only {fs : List Field} {s t : State} (h : SameExcept fs s t) (slots : Field.slots ∉ fs)
    (device : Field.device ∉ fs) (settings : Field.settings ∉ fs) (inv : SnapInv s) : SnapInv t := by
  have sameDevice : t.device = s.device := h .device device
  have sameSettings : t.chanSettings = s.chanSettings := funext (h.chanSettings_eq settings)
  refine (snapInv_iff t).mpr fun i sn body => ?_
  rw [h.slot_eq slots] at body
  rw [State.fires, sameDevice, sameSettings]
  exact (snapInv_iff s).mp inv i sn body

/-- An effect that leads ARMED snapshots on lawfully keeps the law of the store. -/
theorem snapInv_of_onward {s t : State} {phase : Snapshot → List Chan → Option Tick → SnapPhase}
    (slots : ∀ i, t.slot i = (s.slot i).onward phase)
    (each : ∀ (sn : Snapshot) (stale : List Chan) (due : Option Tick), sn.phase = .armed stale due → sn.Lawful s.fires →
      Snapshot.Lawful t.fires { sn with phase := phase sn stale due })
    (inv : SnapInv s) : SnapInv t := by
  refine (snapInv_iff t).mpr fun i sn body => ?_
  rw [slots] at body
  rcases (s.slot i).armed_or_not with ⟨sn', stale, due, before, armed⟩ | none
  · rw [Slot.onward_of_armed before armed] at body
    cases body
    exact each sn' stale due armed ((snapInv_iff s).mp inv i sn' before)
  · rw [Slot.onward_of_not_armed none] at body
    exact ((snapInv_iff s).mp inv i sn body).any_fires (none sn body)

theorem fires_ne_immediate {s : State} {src : SnapSource} (h : s.fires src) : src ≠ .immediate := by
  rintro rfl
  exact h

theorem fires_of_only {fs : List Field} {s t : State} (h : SameExcept fs s t) (device : Field.device ∉ fs)
    (settings : Field.settings ∉ fs) : t.fires = s.fires := by
  have sameDevice : t.device = s.device := h .device device
  have sameSettings : t.chanSettings = s.chanSettings := funext (h.chanSettings_eq settings)
  rw [State.fires, sameDevice, sameSettings, State.fires]

theorem map_captureEntry_channel (s : State) (before : Option (Chan × Engine)) (stale cs : List Chan) :
    (cs.map (captureEntry s before stale)).map (·.channel) = cs := by
  rw [List.map_map]
  exact List.map_id cs

/-! ### The operations of the store -/

theorem captureEvent_keeps_snapInv (cause : CaptureCause) {s : State} (inv : SnapInv s) :
    SnapInv (captureEvent cause s) := by
  refine snapInv_of_onward (fun i => captureEvent_slot cause i s) (fun sn stale due armed law => ?_) inv
  rw [fires_of_only (captureEvent_only cause s) (by decide) (by decide)]
  refine law.led armed ?_
  unfold servedPhase
  split
  · rename_i phase
    split at phase
    · cases phase
    · cases phase
      exact law.armed armed
  · rename_i phase
    split at phase
    · cases phase
      exact map_captureEntry_channel s _ _ _
    · cases phase
  · rename_i phase
    split at phase <;> cases phase

theorem expireSlot_keeps_snapInv (reason : ExpiryReason) (aux : Word) (i : SlotIdx) {s : State} (inv : SnapInv s) :
    SnapInv (expireSlot reason aux i s) := by
  refine (snapInv_iff _).mpr fun j sn body => ?_
  rw [fires_of_only (expireSlot_only reason aux i s) (by decide) (by decide)]
  rw [expireSlot_slot] at body
  split at body
  · rcases (s.slot j).armed_or_not with ⟨sn', stale, due, before, armed⟩ | none
    · rw [Slot.onward_of_armed before armed] at body
      cases body
      have law := (snapInv_iff s).mp inv j sn' before
      obtain ⟨-, -, source⟩ := law.armed armed
      exact law.led armed (fires_ne_immediate source)
    · rw [Slot.onward_of_not_armed none] at body
      exact (snapInv_iff s).mp inv j sn body
  · exact (snapInv_iff s).mp inv j sn body

/-- A loss of sources keeps the law where what is left ARMED can fire under the new settings. -/
theorem lostPhase_lawful {fires fires' : SnapSource → Prop} {cause : SnapSource → Option Word}
    {rest : Snapshot → List Chan → Option Tick → SnapPhase} {sn : Snapshot} {stale : List Chan} {due : Option Tick}
    (law : sn.Lawful fires) (armed : sn.phase = .armed stale due) (waits : sn.source ≠ .immediate)
    (kept : cause sn.source = none → Snapshot.Lawful fires' { sn with phase := rest sn stale due }) :
    Snapshot.Lawful fires' { sn with phase := lostPhase cause rest sn stale due } := by
  unfold lostPhase
  split
  · exact law.led armed waits
  · rename_i stays
    exact kept (by simpa using stays)

theorem staled_lawful {fires fires' : SnapSource → Prop} {sn : Snapshot} {stale : List Chan} {due : Option Tick}
    (law : sn.Lawful fires) (armed : sn.phase = .armed stale due) (c : Chan) (source : fires' sn.source) :
    Snapshot.Lawful fires' { sn with phase := staled c sn stale due } := by
  obtain ⟨marks, limit, -⟩ := law.armed armed
  unfold staled
  split
  · exact law.led armed ⟨fun d mem => (List.mem_filter.mp mem).1, limit, source⟩
  · exact law.led armed ⟨marks, limit, source⟩

theorem reconfigure_keeps_snapInv (c : Chan) (new : ChanSettings) {s : State} (inv : SnapInv s) :
    SnapInv (reconfigure c new s) := by
  have device : (reconfigure c new s).device = s.device := reconfigure_only c new s .device (by decide)
  refine snapInv_of_onward (fun i => reconfigure_slot c new i s) (fun sn stale due armed law => ?_) inv
  obtain ⟨-, -, source⟩ := law.armed armed
  refine lostPhase_lawful law armed (fires_ne_immediate source) fun kept => staled_lawful law armed c ?_
  unfold State.fires at source ⊢
  rw [device]
  cases src : sn.source with
  | immediate => rw [src] at source; exact False.elim source
  | line n => rw [src] at source; exact show tget s.device.capEdge n ≠ .off from source
  | time t => trivial
  | index d =>
    rw [src] at source
    show ((reconfigure c new s).chanSettings d).mode = .quad ∧ _
    rw [reconfigure_chanSettings]
    split
    · rename_i here
      subst here
      rw [src, reconfigureCause, if_pos rfl] at kept
      split at kept
      · cases kept
      · rename_i quad
        split at kept
        · cases kept
        · exact ⟨not_not.mp quad, ‹_›⟩
    · exact source

/-- A record differs in no structural field exactly when the tuning fields are all that it changes (R117, R118). -/
theorem structuralDiffers_eq_false {old new : ChanSettings} :
    structuralDiffers old new = false ↔
      { old with indexQuadrant := new.indexQuadrant, indexPolarity := new.indexPolarity
                 homeValue := new.homeValue } = new := by
  obtain ⟨m, f, r, i, t, g, sp, w, q, pol, h⟩ := old
  obtain ⟨m', f', r', i', t', g', sp', w', q', pol', h'⟩ := new
  simp only [structuralDiffers, Bool.or_eq_false_iff, bne_eq_false_iff_eq, ChanSettings.mk.injEq, and_true, and_assoc]

theorem tuningChange_keeps_snapInv {c : Chan} {new : ChanSettings} {s : State}
    (tunes : structuralDiffers (s.chanSettings c) new = false) (inv : SnapInv s) : SnapInv (tuningChange c new s) := by
  have device : (tuningChange c new s).device = s.device := tuningChange_only c new s .device (by decide)
  have mode : new.mode = (s.chanSettings c).mode := (congrArg ChanSettings.mode (structuralDiffers_eq_false.mp tunes)).symm
  refine snapInv_of_onward (fun i => tuningChange_slot c new i s) (fun sn stale due armed law => ?_) inv
  obtain ⟨marks, limit, source⟩ := law.armed armed
  refine lostPhase_lawful law armed (fires_ne_immediate source) fun kept => law.led armed ⟨marks, limit, ?_⟩
  unfold State.fires at source ⊢
  rw [device]
  cases src : sn.source with
  | immediate => rw [src] at source; exact False.elim source
  | line n => rw [src] at source; exact show tget s.device.capEdge n ≠ .off from source
  | time t => trivial
  | index d =>
    rw [src] at source
    obtain ⟨quad, quadrant⟩ := source
    show ((tuningChange c new s).chanSettings d).mode = .quad ∧ _
    rw [tuningChange_chanSettings]
    split
    · rename_i here
      subst here
      refine ⟨mode.trans quad, fun none => ?_⟩
      rw [src, tuningCause, if_pos ⟨mode.trans quad, quadrant, none, rfl⟩] at kept
      cases kept
    · exact ⟨quad, quadrant⟩

theorem storeDevice_keeps_snapInv (new : DeviceSettings) {s : State} (inv : SnapInv s) :
    SnapInv (storeDevice new s) := by
  refine snapInv_of_onward (fun i => storeDevice_slot new i s) (fun sn stale due armed law => ?_) inv
  obtain ⟨marks, limit, source⟩ := law.armed armed
  refine lostPhase_lawful law armed (fires_ne_immediate source) fun kept => law.led armed ⟨marks, limit, ?_⟩
  have settings : (storeDevice new s).chanSettings = s.chanSettings :=
    funext ((storeDevice_only new s).chanSettings_eq (by decide))
  unfold State.fires at source ⊢
  rw [storeDevice_device, settings]
  cases src : sn.source with
  | immediate => rw [src] at source; exact source
  | index d => rw [src] at source; exact source
  | time t => trivial
  | line n =>
    rw [src] at source kept
    intro off
    rw [lineCause, if_pos ⟨source, off⟩] at kept
    cases kept

theorem freeSlot_keeps_snapInv (i : SlotIdx) {s : State} (inv : SnapInv s) : SnapInv (freeSlot i s) := by
  refine (snapInv_iff _).mpr fun j sn body => ?_
  rw [fires_of_only (freeSlot_only i s) (by decide) (by decide)]
  rw [freeSlot_slot] at body
  split at body
  · cases body
  · exact (snapInv_iff s).mp inv j sn body

/-- A source that SNAP_ARM accepts can fire, or acts at once (R138, R140). -/
theorem snapSourceOf_fires {pl : List Byte} {s : State} {src : SnapSource} (h : snapSourceOf pl s = .ok src) :
    src = .immediate ∨ s.fires src := by
  unfold snapSourceOf at h
  dsimp only at h
  split at h
  · cases h; exact .inl rfl
  · split at h
    · split at h
      · cases h
      · cases h; exact .inr ‹_›
    · cases h
  · split at h
    · split at h
      · cases h; exact .inr ‹_›
      · cases h
    · cases h
  · cases h; exact .inr trivial
  · cases h

theorem newArmLimit_isSome {s : State} {limit : Half} (h : (s.newArmLimit limit).isSome = true) : limit ≠ 0 := by
  unfold State.newArmLimit at h
  split at h
  · cases h
  · assumption

theorem armedBy_lawful {p : Port} {pl : List Byte} {cs : List Chan} {src : SnapSource} {limit : Half} {s : State}
    (list : ListsChannels pl cs) (source : src = .immediate ∨ s.fires src) :
    (armedBy p cs src limit s).Lawful s.fires := by
  obtain ⟨least, most, count, -, order⟩ := list
  refine ⟨count ▸ least, count ▸ most, (ascending_iff cs).mpr order, fun late => ?_, ?_⟩
  · obtain ⟨atOnce, waits⟩ := Bool.and_eq_true_iff.mp late
    refine ⟨?_, _, _, if_pos atOnce⟩
    cases src with
    | time t => exact ⟨t, rfl⟩
    | immediate => simp at waits
    | line => cases atOnce
    | index => cases atOnce
  · show (match if src.atOnce s.now = true then SnapPhase.captured s.now (cs.map (captureEntry s none []))
        else SnapPhase.armed [] (s.newArmLimit limit) with
      | .armed stale due => (∀ c ∈ stale, c ∈ cs) ∧ (due.isSome = true → limit ≠ 0) ∧ s.fires src
      | .captured _ es => es.map (·.channel) = cs
      | .expired _ => src ≠ .immediate)
    by_cases atOnce : src.atOnce s.now = true
    · rw [if_pos atOnce]
      exact map_captureEntry_channel s none [] cs
    · rw [if_neg atOnce]
      refine ⟨fun c mem => (by cases mem), newArmLimit_isSome, source.resolve_left fun immediate => ?_⟩
      subst immediate
      exact atOnce rfl

theorem armSnapshot_keeps_snapInv {p : Port} {pl : List Byte} {cs : List Chan} {src : SnapSource} {limit : Half}
    {i : SlotIdx} {s : State} (list : ListsChannels pl cs) (source : src = .immediate ∨ s.fires src)
    (inv : SnapInv s) : SnapInv (armSnapshot p cs src limit i s) := by
  refine (snapInv_iff _).mpr fun j sn body => ?_
  rw [fires_of_only (armSnapshot_only p cs src limit i s) (by decide) (by decide)]
  rw [armSnapshot_slot] at body
  split at body
  · cases body
    exact armedBy_lawful list source
  · exact (snapInv_iff s).mp inv j sn body

theorem snapInv_of_reset {s : State} (slots : s.slots = State.reset.slots) : SnapInv s :=
  (snapInv_iff s).mpr fun i sn body => by
    simp [State.slot, slots, State.reset, Slot.reset] at body

theorem move_keeps_snapInv {fs : List Field} {s t : State} (m : Move fs s t) (inv : SnapInv s) : SnapInv t := by
  by_cases apart : Field.slots ∉ fs ∧ Field.device ∉ fs ∧ Field.settings ∉ fs
  · exact snapInv_of_only m.only apart.1 apart.2.1 apart.2.2 inv
  · cases m with
    | startReset => exact snapInv_of_reset rfl
    | sample =>
      exact takeSample_keeps (fun h slots _ device settings => snapInv_of_only h slots device settings)
        (fun cause _ => captureEvent_keeps_snapInv cause) _ inv
    | limitEnd => exact expireSlot_keeps_snapInv _ _ _ inv
    | target => exact captureEvent_keeps_snapInv _ inv
    | setChannel _ c new =>
      unfold storeChannel
      split <;> dsimp only
      · exact reconfigure_keeps_snapInv c new inv
      · rename_i tunes
        exact tuningChange_keeps_snapInv (Bool.eq_false_of_not_eq_true tunes) inv
    | setDevice => exact storeDevice_keeps_snapInv _ inv
    | arm _ p pl cs src limit i len passed =>
      obtain ⟨list, source, -, -⟩ := snapArmCheck_ok passed
      exact armSnapshot_keeps_snapInv ((chanListOf_eq_some len).mp list) (snapSourceOf_fires source) inv
    | free => exact freeSlot_keeps_snapInv _ inv
    | portReset =>
      exact portResetBody_keeps (fun h slots _ device settings => snapInv_of_only h slots device settings)
        (fun i _ => freeSlot_keeps_snapInv i) _ _ inv
    | deviceReset => exact snapInv_of_reset rfl
    | _ => exact absurd (by decide) apart

/-- Settles O58: an arming makes a lawful snapshot, and every capture, expiry, stale mark and loss of a source leads
an ARMED one on lawfully under the settings then in force. -/
theorem stepKeepsSnapInv : Obligations.StepKeepsSnapInv := by
  unfold Obligations.StepKeepsSnapInv
  intro s t inv h
  exact (step_moves h).keeps move_keeps_snapInv inv

end Sys2Proof.Machine
end

section
/-! PROOFS. Line conditioning, and the ranges that every step keeps: the quota, the stable-time counts and the counts
of a reset (O59). -/

namespace Sys2Proof.Machine

open Sys2Proof

/-! ### One sample of one line (R8, R9, R10) -/

theorem sampleLine_conditioned (L : Nat) (raw : Level) (l : Conditioner) :
    Conditioned L raw l (sampleLine L raw l).line := by
  unfold Conditioned sampleLine
  by_cases off : L = 0
  · simp [off]
  · rw [if_neg off]
    by_cases same : raw = l.filtered
    · simp [same, off]
    · by_cases short : l.count + 1 < L
      · rw [if_neg same, if_pos short]
        exact ⟨rfl, fun h => absurd h off, fun _ => ⟨fun h => absurd h same, fun _ _ => ⟨rfl, rfl⟩,
          fun _ long => absurd long (by omega)⟩⟩
      · rw [if_neg same, if_neg short]
        exact ⟨rfl, fun h => absurd h off, fun _ => ⟨fun h => absurd h same, fun _ h => absurd h short,
          fun _ _ => ⟨rfl, rfl⟩⟩⟩

/-- A filtered edge is reported exactly where the filtered level changes (R8, R9). -/
theorem sampleLine_edge (L : Nat) (raw : Level) (l : Conditioner) :
    (sampleLine L raw l).edge = true ↔ Edged l (sampleLine L raw l).line := by
  unfold sampleLine Edged
  split
  · simp
  · split
    · simp
    · rename_i other
      split
      · simp
      · simpa using other

theorem sampleLine_glitch (L : Nat) (raw : Level) (l : Conditioner) :
    (sampleLine L raw l).glitch = rejects L raw l := by
  unfold sampleLine rejects
  split
  · simp [*]
  · rename_i on
    have pos : 0 < L := Nat.pos_of_ne_zero on
    split
    · rename_i same
      by_cases none : l.count = 0 <;> simp [pos, same, none]
    · rename_i other
      split <;> simp [other]

/-- A filtered edge leads the filtered level to the level sampled. -/
theorem sampleLine_filtered_of_edge {L : Nat} {raw : Level} {l : Conditioner}
    (edge : (sampleLine L raw l).edge = true) : (sampleLine L raw l).line.filtered = raw := by
  unfold sampleLine at edge ⊢
  split
  · rfl
  · rename_i on
    rw [if_neg on] at edge
    split
    · rename_i same
      exact same.symm
    · rename_i other
      rw [if_neg other] at edge
      split
      · rename_i short
        rw [if_pos short] at edge
        cases edge
      · rfl

/-! ### One sample of a unit (R6, R11) -/

/-- A sample steps the conditioners of its channel and touches no other (R6). -/
theorem takeSample_chanLines (c d : Chan) (v : Levels) (s : State) :
    (takeSample (.chan c v) s).chanLines d =
      if c = d then (sampleChanLines (filterLength (s.chanSettings c).filterStep) v (s.chanLines c)).1
      else s.chanLines d := by
  simp only [takeSample]
  split
  · rw [(takeReport_only c _ _).chanLines_eq (by decide), State.chanLines_setChanLines]
  · rw [State.chanLines_setChanLines]

theorem SameExcept.cap_eq {fs : List Field} {s t : State} (h : SameExcept fs s t) (hf : Field.caps ∉ fs)
    (n : CapIdx) : t.cap n = s.cap n := by
  have e : t.caps = s.caps := h .caps hf
  simp only [State.cap, e]

theorem takeSample_cap (n m : CapIdx) (v : Level) (s : State) :
    (takeSample (.cap n v) s).cap m =
      if n = m then
        { line := (sampleLine (filterLength s.device.lineFilterStep) v (s.cap n).line).line, sampled := true }
      else s.cap m := by
  simp only [takeSample]
  split
  · rw [(captureEvent_only _ _).cap_eq (by decide), State.cap_setCap]
  · rw [State.cap_setCap]

theorem takeSample_chan_only (c : Chan) (v : Levels) (s : State) :
    SameExcept [.lines, .engines, .rings, .views, .slots, .queues, .intLine] s (takeSample (.chan c v) s) := by
  simp only [takeSample]
  split
  · exact (setChanLines_only _ _ _).andThen (takeReport_only c _ _) (by decide)
  · exact (setChanLines_only _ _ _).mono (by decide)

theorem takeSample_cap_only (n : CapIdx) (v : Level) (s : State) :
    SameExcept [.caps, .slots, .queues, .intLine] s (takeSample (.cap n v) s) := by
  simp only [takeSample]
  split
  · exact (setCap_only _ _ _).andThen (captureEvent_only _ _) (by decide)
  · exact (setCap_only _ _ _).mono (by decide)

/-! ### Stable-time counts (R8, R9) -/

/-- A stable-time count within a filter length. -/
def Conditioner.Within (L : Nat) (l : Conditioner) : Prop := l.count = 0 ∨ l.count < L

/-- The three lines of a channel within a filter length. -/
def ChanLines.Within (L : Nat) (l : ChanLines) : Prop := l.a.Within L ∧ l.b.Within L ∧ l.z.Within L

theorem countInv_iff (s : State) :
    CountInv s ↔ (s.running →
      (∀ c, (s.chanLines c).Within (filterLength (s.chanSettings c).filterStep)) ∧
      ∀ n, (s.cap n).line.Within (filterLength s.device.lineFilterStep)) := by
  unfold CountInv ChanLines.Within Conditioner.Within
  simp only [List.forall_mem_cons, List.not_mem_nil, false_imp_iff, implies_true, and_true]

/-- After a sample a count is within the filter length, whatever it was before (R8). -/
theorem sampleLine_within (L : Nat) (raw : Level) (l : Conditioner) : (sampleLine L raw l).line.Within L := by
  unfold sampleLine Conditioner.Within
  split
  · exact .inl rfl
  · split
    · exact .inl rfl
    · split
      · exact .inr ‹_›
      · exact .inl rfl

theorem sampleChanLines_within (L : Nat) (v : Levels) (l : ChanLines) : (sampleChanLines L v l).1.Within L :=
  ⟨sampleLine_within L _ _, sampleLine_within L _ _, sampleLine_within L _ _⟩

theorem takeSample_keeps_countInv (u : Sample) {s : State} (run : s.running) (inv : CountInv s) :
    CountInv (takeSample u s) := by
  obtain ⟨chans, caps⟩ := (countInv_iff s).mp inv run
  refine (countInv_iff _).mpr fun _ => ?_
  have device : (takeSample u s).device = s.device := takeSample_only u s .device (by decide)
  have settings := (takeSample_only u s).chanSettings_eq (by decide)
  rw [device]
  simp only [settings]
  cases u with
  | chan c v =>
    refine ⟨fun d => ?_, fun n => ?_⟩
    · rw [takeSample_chanLines]
      split
      · subst d; exact sampleChanLines_within _ _ _
      · exact chans d
    · rw [(takeSample_chan_only c v s).cap_eq (by decide)]
      exact caps n
  | cap n v =>
    refine ⟨fun d => ?_, fun m => ?_⟩
    · rw [(takeSample_cap_only n v s).chanLines_eq (by decide)]
      exact chans d
    · rw [takeSample_cap]
      split
      · exact sampleLine_within _ _ _
      · exact caps m

theorem countInv_of_only {fs : List Field} {s t : State} (h : SameExcept fs s t) (phase : Field.phase ∉ fs)
    (device : Field.device ∉ fs) (lines : Field.lines ∉ fs) (caps : Field.caps ∉ fs) (settings : Field.settings ∉ fs)
    (inv : CountInv s) : CountInv t := by
  have samePhase : t.phase = s.phase := h .phase phase
  have sameDevice : t.device = s.device := h .device device
  refine (countInv_iff t).mpr fun run => ?_
  obtain ⟨chans, units⟩ := (countInv_iff s).mp inv (samePhase.symm.trans run)
  simp only [h.chanLines_eq lines, h.chanSettings_eq settings, h.cap_eq caps, sameDevice]
  exact ⟨chans, units⟩

theorem countInv_of_not_running {s : State} (h : s.phase ≠ .running) : CountInv s := fun run => absurd run h

/-! ### The settings commands (R14, R15) -/

theorem reconfigure_chanLines (c d : Chan) (new : ChanSettings) (s : State) :
    (reconfigure c new s).chanLines d = if c = d then restartChanLines (s.chanLines c) else s.chanLines d := by
  rw [(reconfigure_after c new s).chanLines_eq (by decide)]
  exact State.chanLines_setChanLines (s.setChanSettings c new) c d _

theorem storeChannel_keeps_countInv (c : Chan) (new : ChanSettings) {s : State} (inv : CountInv s) :
    CountInv (storeChannel c new s).1 := by
  have only := storeChannel_only c new s
  have phase : (storeChannel c new s).1.phase = s.phase := only .phase (by decide)
  have device : (storeChannel c new s).1.device = s.device := only .device (by decide)
  refine (countInv_iff _).mpr fun run => ?_
  obtain ⟨chans, caps⟩ := (countInv_iff s).mp inv (phase.symm.trans run)
  rw [device]
  simp only [only.cap_eq (by decide)]
  refine ⟨fun d => ?_, caps⟩
  unfold storeChannel
  split <;> dsimp only
  · rw [reconfigure_chanLines, reconfigure_chanSettings]
    split
    · exact ⟨.inl rfl, .inl rfl, .inl rfl⟩
    · exact chans d
  · rename_i tunes
    have record := structuralDiffers_eq_false.mp (Bool.eq_false_of_not_eq_true tunes)
    have filterStep : new.filterStep = (s.chanSettings c).filterStep := (congrArg ChanSettings.filterStep record).symm
    rw [tuningChange_chanSettings, (tuningChange_only c new s).chanLines_eq (by decide)]
    split
    · subst d
      rw [filterStep]
      exact chans c
    · exact chans d

theorem restartCap_cap (n m : CapIdx) (s : State) :
    (restartCap n s).cap m = if n = m then { s.cap n with line := restartCount (s.cap n).line } else s.cap m :=
  State.cap_setCap s n m _

/-- After SET_DEVICE the counts of the capture lines start anew where the filter step changed (R15). -/
theorem storeDevice_cap (new : DeviceSettings) (n : CapIdx) (s : State) :
    (storeDevice new s).cap n =
      if s.device.lineFilterStep ≠ new.lineFilterStep then
        { s.cap n with line := { (s.cap n).line with count := 0 } }
      else s.cap n := by
  have before : SameExcept [.device, .claims, .slots, .queues, .intLine] s
      (forSlots (loseLineSource s.device new)
        (if s.device.leasePeriod ≠ new.leasePeriod then forResources relength (s.setDevice new)
          else s.setDevice new)) :=
    (((setDevice_only s new).mono (by decide)).trans (SameExcept.ite
      ((SameExcept.forResources relength_only _).mono (by decide)) (SameExcept.refl _ _))).trans
      ((SameExcept.forSlots (loseLineSource_only s.device new) _).mono (by decide))
  unfold storeDevice
  dsimp only
  split
  · rw [restartCap_cap]
    by_cases one : n = 1
    · subst one
      rw [if_pos rfl, restartCap_cap, if_neg (by decide), before.cap_eq (by decide)]
      rfl
    · have zero : n = 0 := (show ∀ m : CapIdx, m ≠ 1 → m = 0 by decide) n one
      subst zero
      rw [if_neg (by decide), restartCap_cap, if_pos rfl, before.cap_eq (by decide)]
      rfl
  · exact before.cap_eq (by decide) n

theorem storeDevice_keeps_countInv (new : DeviceSettings) {s : State} (inv : CountInv s) :
    CountInv (storeDevice new s) := by
  have only := storeDevice_only new s
  have phase : (storeDevice new s).phase = s.phase := only .phase (by decide)
  refine (countInv_iff _).mpr fun run => ?_
  obtain ⟨chans, caps⟩ := (countInv_iff s).mp inv (phase.symm.trans run)
  simp only [only.chanLines_eq (by decide), only.chanSettings_eq (by decide), storeDevice_device]
  refine ⟨chans, fun n => ?_⟩
  rw [storeDevice_cap]
  split
  · exact .inl rfl
  · rename_i same
    rw [← not_not.mp same]
    exact caps n

/-! ### Ticks and resets -/

/-- A tick keeps the conditioners; of a running device it clears the marks of the samples (R6). -/
theorem advance_lines (s : State) (c : Chan) (n : CapIdx) :
    ((advance s).chanLines c).a = (s.chanLines c).a ∧ ((advance s).chanLines c).b = (s.chanLines c).b ∧
      ((advance s).chanLines c).z = (s.chanLines c).z ∧ ((advance s).cap n).line = (s.cap n).line := by
  unfold advance
  split <;> simp [advanceRunning, sampleReset, State.chanLines, State.cap]

theorem advance_running {s : State} (h : (advance s).running) : s.running := by
  unfold advance at h
  split at h
  · assumption
  · cases h
  · rename_i held
    exact absurd (held.symm.trans h) (by simp)

theorem advance_keeps_countInv {s : State} (inv : CountInv s) : CountInv (advance s) := by
  have device : (advance s).device = s.device := advance_only s .device (by decide)
  refine (countInv_iff _).mpr fun run => ?_
  obtain ⟨chans, caps⟩ := (countInv_iff s).mp inv (advance_running run)
  simp only [(advance_only s).chanSettings_eq (by decide), device]
  refine ⟨fun c => ?_, fun n => ?_⟩
  · obtain ⟨a, b, z, -⟩ := advance_lines s c 0
    rw [ChanLines.Within, a, b, z]
    exact chans c
  · obtain ⟨-, -, -, line⟩ := advance_lines s 0 n
    rw [line]
    exact caps n

theorem countInv_of_zero {s : State} (chans : ∀ c, (s.chanLines c).a.count = 0 ∧ (s.chanLines c).b.count = 0 ∧
    (s.chanLines c).z.count = 0) (caps : ∀ n, (s.cap n).line.count = 0) : CountInv s :=
  (countInv_iff s).mpr fun _ => ⟨fun c => ⟨.inl (chans c).1, .inl (chans c).2.1, .inl (chans c).2.2⟩,
    fun n => .inl (caps n)⟩

theorem endReset_chanLines (pins : PinLevels) (s : State) (c : Chan) :
    (endReset pins s).chanLines c =
      { a := settledAt (tget pins.chan c).a, b := settledAt (tget pins.chan c).b
        z := settledAt (tget pins.chan c).z, sampled := true } := by
  simp [endReset, State.chanLines]

theorem endReset_cap (pins : PinLevels) (s : State) (n : CapIdx) :
    (endReset pins s).cap n = { line := settledAt (tget pins.cap n), sampled := true } := by
  simp [endReset, State.cap]

theorem deviceResetBody_chanLines (p : Port) (s : State) (c : Chan) :
    (deviceResetBody p s).1.chanLines c =
      { s.chanLines c with
        a := settle (s.chanLines c).a, b := settle (s.chanLines c).b, z := settle (s.chanLines c).z } := by
  simp [deviceResetBody, settleLines, resetBlocks, State.chanLines]

theorem deviceResetBody_cap (p : Port) (s : State) (n : CapIdx) :
    (deviceResetBody p s).1.cap n = { s.cap n with line := settle (s.cap n).line } := by
  simp [deviceResetBody, settleLines, resetBlocks, State.cap]

theorem move_keeps_countInv {fs : List Field} {s t : State} (m : Move fs s t) (inv : CountInv s) : CountInv t := by
  by_cases apart : Field.phase ∉ fs ∧ Field.device ∉ fs ∧ Field.lines ∉ fs ∧ Field.caps ∉ fs ∧ Field.settings ∉ fs
  · obtain ⟨phase, device, lines, caps, settings⟩ := apart
    exact countInv_of_only m.only phase device lines caps settings inv
  · cases m with
    | advance => exact advance_keeps_countInv inv
    | startReset _ phase begins =>
      refine countInv_of_not_running fun run => ?_
      rcases begins with rfl | rfl <;> cases run
    | holdReset => exact countInv_of_not_running (by simp)
    | endReset =>
      exact countInv_of_zero (fun c => by rw [endReset_chanLines]; exact ⟨rfl, rfl, rfl⟩)
        fun n => by rw [endReset_cap]; rfl
    | sample _ u run => exact takeSample_keeps_countInv u run inv
    | setChannel => exact storeChannel_keeps_countInv _ _ inv
    | setDevice => exact storeDevice_keeps_countInv _ inv
    | deviceReset =>
      exact countInv_of_zero (fun c => by rw [deviceResetBody_chanLines]; exact ⟨rfl, rfl, rfl⟩)
        fun n => by rw [deviceResetBody_cap]; rfl
    | _ => exact absurd (by decide) apart

/-! ### The quota and the counts of a reset (R2, R131) -/

theorem quotaInv_of_device {s t : State} (h : t.device = s.device) (inv : QuotaInv s) : QuotaInv t := by
  rwa [QuotaInv, h]

theorem quotaInv_of_default {s : State} (h : s.device = DeviceSettings.default) : QuotaInv s := by
  rw [QuotaInv, h]
  decide

/-- A device settings record has a quota of 1 to 24 (R131, R132). -/
theorem deviceSettingsAt_quota {pl : List Byte} {i : Nat} {d : DeviceSettings} (h : deviceSettingsAt pl i = some d) :
    1 ≤ d.quota.toNat ∧ d.quota.toNat ≤ 24 := by
  unfold deviceSettingsAt at h
  dsimp only at h
  split at h
  · rename_i range
    simp only [Option.bind_eq_bind, Option.bind_eq_some_iff] at h
    obtain ⟨_, -, _, -, _, -, record⟩ := h
    cases record
    exact range
  · cases h

theorem move_keeps_quotaInv {fs : List Field} {s t : State} (m : Move fs s t) (inv : QuotaInv s) : QuotaInv t := by
  by_cases apart : Field.device ∉ fs
  · exact quotaInv_of_device (m.only .device apart) inv
  · cases m with
    | startReset => exact quotaInv_of_default rfl
    | setDevice _ pl new record =>
      rw [QuotaInv, storeDevice_device]
      exact deviceSettingsAt_quota record
    | deviceReset => exact quotaInv_of_default rfl
    | _ => exact absurd (by decide) apart

/-- A power-on interval that owes nothing has not reached its 4,096 ticks (R2). -/
theorem elapsed_lt_of_paid {s : State} (paid : s.owed = []) {elapsed : Nat}
    (interval : s.phase = .powerOnInterval elapsed) : elapsed < 4096 := by
  unfold State.owed at paid
  rw [interval] at paid
  by_contra h
  simp [h] at paid

theorem advance_keeps_resetInv {s : State} (paid : s.owed = []) (inv : ResetInv s) : ResetInv (advance s) := by
  obtain ⟨-, ticks⟩ := inv
  refine ⟨?_, fun elapsed interval => ?_⟩
  · rw [advance_resetLow]
    split <;> omega
  · unfold advance at interval
    split at interval
    · rename_i run
      exact absurd (run.symm.trans interval) (by simp)
    · rename_i before was
      cases interval
      exact elapsed_lt_of_paid paid was
    · exact ticks elapsed interval

theorem move_keeps_resetInv {fs : List Field} {s t : State} (m : Move fs s t) (inv : ResetInv s) : ResetInv t := by
  by_cases apart : Field.phase ∉ fs ∧ Field.resetLow ∉ fs
  · have phase : t.phase = s.phase := m.only .phase apart.1
    have low : t.resetLow = s.resetLow := m.only .resetLow apart.2
    rwa [ResetInv, phase, low]
  · obtain ⟨low, ticks⟩ := inv
    cases m with
    | advance _ paid => exact advance_keeps_resetInv paid ⟨low, ticks⟩
    | startReset _ phase begins =>
      refine ⟨low, fun elapsed interval => ?_⟩
      rcases begins with rfl | rfl <;> cases interval
      exact Nat.zero_le 4096
    | holdReset => exact ⟨low, fun elapsed interval => by cases interval⟩
    | endReset => exact ⟨low, fun elapsed interval => by cases interval⟩
    | _ => exact absurd (by decide) apart

/-- Settles O59: a sample leaves a count below its filter length, a changed filter length restarts the counts under
it, and a tick counts no further than the reset it serves. -/
theorem stepKeepsRangeInv : Obligations.StepKeepsRangeInv := by
  unfold Obligations.StepKeepsRangeInv
  intro s t h
  have moves := step_moves h
  exact ⟨fun quota count => ⟨moves.keeps move_keeps_quotaInv quota, moves.keeps move_keeps_countInv count⟩,
    moves.keeps move_keeps_resetInv⟩

end Sys2Proof.Machine
end

section
/-! PROOFS. What the operations of the channels make of views and rings, view by view, and what a sample or an expiry
does to them as a chain of effects. -/

namespace Sys2Proof.Machine

open Sys2Proof

/-! ### One action for each port (R76) -/

/-- An action on each port that makes of its own port's view of one channel what `F` says, and leaves the other
views and all that `F` reads. -/
theorem forPorts_view {γ : Type} {f : Port → State → State} {read : State → γ} {F : γ → View → View} {c : Chan}
    (own : ∀ p q d s, (f p s).view q d = if p = q ∧ c = d then F (read s) (s.view q d) else s.view q d)
    (same : ∀ p s, read (f p s) = read s) (q : Port) (d : Chan) (s : State) :
    (forPorts f s).view q d = if c = d then F (read s) (s.view q d) else s.view q d := by
  unfold forPorts
  simp only [own, same]
  by_cases here : c = d
  · fin_cases q <;> simp [here]
  · simp [here]

/-! ### Position changes (R88) -/

/-- A view after a position change: an enabled window takes the state of the new position. -/
def View.afterPosition (v : View) (pos : Word) : View :=
  if v.windowOn = true then { v with windowState := some (windowStateOf v.low v.high pos) } else v

theorem windowEval_view (c : Chan) (p q : Port) (d : Chan) (s : State) :
    (windowEval c p s).view q d =
      if p = q ∧ c = d then (s.view q d).afterPosition (s.engine c).position else s.view q d := by
  unfold windowEval View.afterPosition
  dsimp only
  by_cases here : p = q ∧ c = d
  · rw [if_pos here]
    obtain ⟨rfl, rfl⟩ := here
    split
    · split
      · rename_i kept
        rw [kept]
      · rw [(deliver_only _ _ _ _ _ _).view_eq (by decide), State.view_setView_self]
    · rfl
  · rw [if_neg here]
    split
    · split
      · rfl
      · rw [(deliver_only _ _ _ _ _ _).view_eq (by decide), State.view_setView, if_neg here]
    · rfl

theorem positionChange_view (c : Chan) (q : Port) (d : Chan) (s : State) :
    (positionChange c s).view q d =
      if c = d then (s.view q d).afterPosition (s.engine c).position else s.view q d :=
  forPorts_view (read := fun s => (s.engine c).position) (F := fun pos v => v.afterPosition pos)
    (windowEval_view c) (fun p s => by rw [(windowEval_only c p s).engine_eq (by decide)]) q d s

/-! ### Pushes (R64, R65) -/

/-- A view after a push into a ring: one that stands on the entry evicted is charged with it. -/
def View.charged (r : Ring) (v : View) : View :=
  match r.entries.head? with
  | some oldest =>
    if 16 ≤ r.entries.length ∧ v.cursor = oldest.seq then
      { v with cursor := oldest.seq + 1, missed := satInc v.missed, overrun := true }
    else v
  | none => v

theorem chargeEviction_view (c : Chan) (seq : Word) (p q : Port) (d : Chan) (s : State) :
    (chargeEviction c seq p s).view q d =
      if p = q ∧ c = d then
        (if (s.view q d).cursor = seq then
          { s.view q d with cursor := seq + 1, missed := satInc (s.view q d).missed, overrun := true }
        else s.view q d)
      else s.view q d := by
  unfold chargeEviction
  dsimp only
  by_cases here : p = q ∧ c = d
  · rw [if_pos here]
    obtain ⟨rfl, rfl⟩ := here
    split
    · split
      · rw [State.view_setView_self]
      · rw [(deliver_only _ _ _ _ _ _).view_eq (by decide), State.view_setView_self]
    · rfl
  · rw [if_neg here]
    split
    · split
      · rw [State.view_setView, if_neg here]
      · rw [(deliver_only _ _ _ _ _ _).view_eq (by decide), State.view_setView, if_neg here]
    · rfl

theorem pushEntry_view (c : Chan) (kind : EntryKind) (value : Word) (overrange homing : Bool) (q : Port) (d : Chan)
    (s : State) :
    (pushEntry c kind value overrange homing s).view q d =
      if c = d then (s.view q d).charged (s.ring c) else s.view q d := by
  unfold pushEntry evictOldest View.charged
  dsimp only
  rw [State.setRing_view]
  cases first : (s.ring c).entries with
  | nil => simp
  | cons oldest later =>
    dsimp only
    rw [← first]
    split
    · rename_i full
      rw [forPorts_view (read := fun _ => ()) (F := fun _ v => if v.cursor = oldest.seq then
        { v with cursor := oldest.seq + 1, missed := satInc v.missed, overrun := true } else v)
        (chargeEviction_view c oldest.seq) (fun _ _ => rfl), State.setRing_view]
      simp [first]
      simp [first] at full
      simp [full]
    · rename_i room
      simp [first] at room ⊢
      intro _ full
      omega

/-! ### Reconfigurations (R71, R92) -/

theorem emptyRing_view (c : Chan) (q : Port) (d : Chan) (s : State) :
    (emptyRing c s).view q d =
      if c = d then { s.view q d with cursor := (s.ring c).next } else s.view q d :=
  forPorts_view (read := fun _ => (s.ring c).next) (F := fun next v => { v with cursor := next })
    (fun p q d u => by
      rw [State.view_setView]
      by_cases here : p = q ∧ c = d
      · obtain ⟨rfl, rfl⟩ := here; rfl
      · rw [if_neg here, if_neg here]) (fun _ _ => rfl) q d (s.setRing c { s.ring c with entries := [] })

/-- A view after its channel's reconfiguration to a mode (R92). -/
def View.reconfigured (mode : Mode) (now : Tick) (pos : Word) (v : View) : View :=
  { v.zeroed now with windowState := windowStateFor v mode pos }

theorem reconfigureView_view (c : Chan) (old new : Mode) (unread : Word) (p q : Port) (d : Chan) (s : State) :
    (reconfigureView c old new unread p s).view q d =
      if p = q ∧ c = d then (s.view q d).reconfigured new s.now (s.engine c).position else s.view q d := by
  have told : SameExcept [.queues, .intLine] s
      (if (s.view p c).eventDelta ≠ 0 ∨ (s.view p c).faultDelta ≠ 0 ∨ unread ≠ 0 ∨
          hasKind (s.view p c).subs .reconfigured = true then
        handNotice p { kind := .reconfigured, source := .channel c, time := s.now, value := (s.view p c).eventDelta
                       aux := reconfiguredAux (s.view p c).faultDelta unread (s.view p c).eventSat
                        (s.view p c).faultSat old new } s
      else s) := SameExcept.ite (handNotice_only _ _ _) (.refl _ s)
  have now : _ = s.now := told .now (by decide)
  unfold reconfigureView
  dsimp only
  rw [State.view_setView, told.view_eq (by decide), told.engine_eq (by decide), now]
  by_cases here : p = q ∧ c = d
  · obtain ⟨rfl, rfl⟩ := here; rfl
  · rw [if_neg here, if_neg here]

theorem forPorts_reconfigureView_view (c : Chan) (old new : Mode) (unread : Port → Word) (q : Port) (d : Chan)
    (s : State) :
    (forPorts (fun p => reconfigureView c old new (unread p) p) s).view q d =
      if c = d then (s.view q d).reconfigured new s.now (s.engine c).position else s.view q d :=
  forPorts_view (read := fun s => (s.now, (s.engine c).position)) (F := fun r v => v.reconfigured new r.1 r.2)
    (fun p => reconfigureView_view c old new (unread p) p)
    (fun p s => by
      have only := reconfigureView_only c old new (unread p) p s
      rw [only.engine_eq (by decide), show (reconfigureView c old new (unread p) p s).now = s.now from
        only .now (by decide)]) q d s

/-- The parts of a reconfiguration before the ring's (R123). -/
def reconfigureBase (c : Chan) (new : ChanSettings) (s : State) : State :=
  ((s.setChanSettings c new).setChanLines c (restartChanLines (s.chanLines c))).setEngine c
    (enterMode new (restartChanLines (s.chanLines c)) (s.engine c))

theorem reconfigureBase_only (c : Chan) (new : ChanSettings) (s : State) :
    SameExcept [.settings, .lines, .engines] s (reconfigureBase c new s) :=
  (((setChanSettings_only s c new).mono (by decide)).trans ((setChanLines_only _ c _).mono (by decide))).trans
    ((setEngine_only _ c _).mono (by decide))

theorem reconfigureBase_engine (c : Chan) (new : ChanSettings) (s : State) :
    (reconfigureBase c new s).engine c = enterMode new (restartChanLines (s.chanLines c)) (s.engine c) :=
  State.engine_setEngine_self _ _ _

theorem reconfigure_eq (c : Chan) (new : ChanSettings) (s : State) :
    reconfigure c new s = forSlots (reconfigureSlot c new)
      (forPorts (fun p => reconfigureView c (s.chanSettings c).mode new.mode (s.unread p c) p)
        (emptyRing c (reconfigureBase c new s))) := rfl

theorem reconfigure_ring (c d : Chan) (new : ChanSettings) (s : State) :
    (reconfigure c new s).ring d = if c = d then { entries := [], next := (s.ring c).next } else s.ring d := by
  have slots := SameExcept.forSlots (fun i u => reconfigureSlot_only c new i u)
  have views := SameExcept.forPorts
    (fun p u => reconfigureView_only c (s.chanSettings c).mode new.mode (s.unread p c) p u)
  have cursors := SameExcept.forPorts (fun (p : Port) (u : State) =>
    setView_only u p c { u.view p c with cursor := ((reconfigureBase c new s).ring c).next })
  rw [reconfigure_eq, (slots _).ring_eq (by decide), (views _).ring_eq (by decide)]
  exact ((cursors _).ring_eq (by decide) d).trans (State.ring_setRing _ c d _)

theorem reconfigure_view (c : Chan) (new : ChanSettings) (q : Port) (d : Chan) (s : State) :
    (reconfigure c new s).view q d =
      if c = d then
        { (s.view q d).reconfigured new.mode s.now 0 with cursor := (s.ring c).next }
      else s.view q d := by
  have base := reconfigureBase_only c new s
  have emptied := emptyRing_only c (reconfigureBase c new s)
  have now : (emptyRing c (reconfigureBase c new s)).now = s.now :=
    (emptied .now (by decide)).trans (base .now (by decide))
  rw [reconfigure_eq, (SameExcept.forSlots (fun i u => reconfigureSlot_only c new i u) _).view_eq (by decide),
    forPorts_reconfigureView_view, emptied.engine_eq (by decide), reconfigureBase_engine, emptyRing_view,
    base.view_eq (by decide), base.ring_eq (by decide), now]
  split <;> rfl

theorem reconfigure_engine (c d : Chan) (new : ChanSettings) (s : State) :
    (reconfigure c new s).engine d =
      if c = d then enterMode new (restartChanLines (s.chanLines c)) (s.engine c) else s.engine d := by
  rw [(reconfigure_after c new s).engine_eq (by decide)]
  exact State.engine_setEngine _ c d _

/-- An engine after a tuning change of its channel's record (R120, R121). -/
def Engine.tuned (old new : ChanSettings) (l : ChanLines) (e : Engine) : Engine :=
  if new.mode = .quad then
    if old.indexQuadrant ≠ none ∧ new.indexQuadrant = none then { e with indexCond := false, homingArmed := false }
    else if old.indexQuadrant ≠ new.indexQuadrant ∨ old.indexPolarity ≠ new.indexPolarity then
      { e with indexCond := indexCondition new l }
    else e
  else e

theorem tuningChange_engine (c d : Chan) (new : ChanSettings) (s : State) :
    (tuningChange c new s).engine d =
      if c = d then (s.engine c).tuned (s.chanSettings c) new (s.chanLines c) else s.engine d := by
  have kept : s.engine d = if c = d then s.engine c else s.engine d := by split <;> simp_all
  unfold tuningChange Engine.tuned
  dsimp only
  split
  · split
    · rw [(loseIndexSource_only c 3 _).engine_eq (by decide), State.engine_setEngine]
      rfl
    · split
      · rw [State.engine_setEngine]
        rfl
      · exact kept
  · exact kept

/-! ### The view commands (R81, R84, R194) -/

/-- A view after SET_VIEW stores its settings (R84, R85, R86). -/
def View.stored (w : ViewSettings) (mode : Mode) (pos : Word) (v : View) : View :=
  { v.withSettings w with
    eventAbove := isAbove w.eventThreshold v.eventDelta
    faultAbove := isAbove w.faultThreshold v.faultDelta
    windowState := windowStateFor (v.withSettings w) mode pos }

/-- The view of a port with new settings and the above marks they make (R84, R85). -/
def View.marked (w : ViewSettings) (v : View) : View :=
  { v.withSettings w with
    eventAbove := isAbove w.eventThreshold v.eventDelta
    faultAbove := isAbove w.faultThreshold v.faultDelta }

/-- The notices of SET_VIEW, each where its above mark becomes set (R85). -/
def tellAboveMarks (p : Port) (c : Chan) (w : ViewSettings) (v : View) (s : State) : State :=
  let s := if isAbove w.eventThreshold v.eventDelta && !v.eventAbove then
    deliver p c .threshold v.eventDelta w.eventThreshold s else s
  if isAbove w.faultThreshold v.faultDelta && !v.faultAbove then
    deliver p c .faultThreshold (v.faultDelta.setWidth 32) (w.faultThreshold.setWidth 32) s else s

theorem tellAboveMarks_only (p : Port) (c : Chan) (w : ViewSettings) (v : View) (s : State) :
    SameExcept [.queues, .intLine] s (tellAboveMarks p c w v s) :=
  (SameExcept.ite (deliver_only _ _ _ _ _ _) (.refl _ s)).trans
    (SameExcept.ite (deliver_only _ _ _ _ _ _) (.refl _ _))

theorem storeView_eq (p : Port) (c : Chan) (w : ViewSettings) (s : State) :
    storeView p c w s = (tellAboveMarks p c w (s.view p c) (s.setView p c ((s.view p c).marked w))).setView p c
      ((s.view p c).stored w (s.chanSettings c).mode (s.engine c).position) := by
  have only := tellAboveMarks_only p c w (s.view p c) (s.setView p c ((s.view p c).marked w))
  have unfolded : storeView p c w s =
      let u := tellAboveMarks p c w (s.view p c) (s.setView p c ((s.view p c).marked w))
      u.setView p c { u.view p c with
        windowState := windowStateFor (u.view p c) (u.chanSettings c).mode (u.engine c).position } := rfl
  rw [unfolded]
  dsimp only
  rw [only.view_eq (by decide), only.chanSettings_eq (by decide), only.engine_eq (by decide),
    State.view_setView_self, State.setView_chanSettings, State.setView_engine]
  rfl

theorem storeView_view (p : Port) (c : Chan) (w : ViewSettings) (q : Port) (d : Chan) (s : State) :
    (storeView p c w s).view q d =
      if p = q ∧ c = d then (s.view q d).stored w (s.chanSettings c).mode (s.engine c).position
      else s.view q d := by
  rw [storeView_eq, State.view_setView, (tellAboveMarks_only p c w _ _).view_eq (by decide), State.view_setView]
  by_cases here : p = q ∧ c = d
  · rw [if_pos here, if_pos here]
    obtain ⟨rfl, rfl⟩ := here
    rfl
  · rw [if_neg here, if_neg here, if_neg here]

theorem forChans_dropView_view (p q : Port) (d : Chan) (s : State) :
    (forChans (dropView p) s).view q d = if p = q then View.fresh s.now (s.ring d).next else s.view q d := by
  have every := foldl_table (get := fun s d q => s.view q d) (f := dropView p)
    (read := fun s => (s.now, fun d => (s.ring d).next))
    (F := fun r d views q => if p = q then View.fresh r.1 (r.2 d) else views q)
    (fun c d s => by
      funext q
      by_cases here : c = d
      · subst here
        simp only [dropView, State.view_setView, and_true, if_true]
      · simp only [dropView, State.view_setView, here, and_false, if_false])
    (fun c s => by
      have now : (dropView p c s).now = s.now := dropView_only p c s .now (by decide)
      simp only [now, (dropView_only p c s).ring_eq (by decide)]) d s
  exact congrFun every q

theorem portResetBody_view (p : Port) (pl : List Byte) (q : Port) (d : Chan) (s : State) :
    (portResetBody p pl s).1.view q d = if p = q then View.fresh s.now (s.ring d).next else s.view q d := by
  have before : SameExcept [.claims, .slots, .held, .queues, .intLine] s
      (forSlots (dropSlot p) (forResources (dropWaiting p) (forResources (dropHolding p) s))) :=
    (((SameExcept.forResources (dropHolding_only p) _).mono (by decide)).trans
      ((SameExcept.forResources (dropWaiting_only p) _).mono (by decide))).trans
      ((SameExcept.forSlots (dropSlot_only p) _).mono (by decide))
  have now := before .now (by decide)
  show (dropQueue p (forChans (dropView p) _)).view q d = _
  rw [(dropQueue_only p _).view_eq (by decide), forChans_dropView_view, before.view_eq (by decide),
    before.ring_eq (by decide), show _ = s.now from now]

/-! ### PRESET (R37) -/

theorem clearReferenced_engine (c d : Chan) (cause : Word) (s : State) :
    (clearReferenced c cause s).engine d =
      if c = d then { s.engine d with referenced := false } else s.engine d := by
  unfold clearReferenced
  dsimp only
  split
  · rw [(noticeViews_only _ _ _ _ _).engine_eq (by decide), State.engine_setEngine]
    split
    · rename_i here; subst here; rfl
    · rfl
  · rename_i clear
    split
    · rename_i here
      subst here
      cases h : s.engine c
      rw [h] at clear
      simp_all
    · rfl

theorem presetBody_of_quad {pl : List Byte} {c : Chan} {s : State} (quad : (s.chanSettings c).mode = .quad) :
    presetBody pl c s =
      (positionChange c (clearReferenced c 2 (s.setEngine c { s.engine c with position := wordAt pl 1 })),
        okReply (le4 (s.engine c).position)) := by
  simp only [presetBody, if_pos quad]

theorem presetBody_of_other {pl : List Byte} {c : Chan} {s : State} (other : (s.chanSettings c).mode ≠ .quad) :
    presetBody pl c s = (s, wrongMode) := by
  simp only [presetBody, if_neg other]

theorem preset_engine (c d : Chan) (pos : Word) (s : State) :
    (positionChange c (clearReferenced c 2 (s.setEngine c { s.engine c with position := pos }))).engine d =
      if c = d then { s.engine d with position := pos, referenced := false } else s.engine d := by
  rw [(positionChange_only c _).engine_eq (by decide), clearReferenced_engine, State.engine_setEngine]
  split
  · rename_i here; subst here; rfl
  · rfl

theorem preset_view (c : Chan) (pos : Word) (q : Port) (d : Chan) (s : State) :
    (positionChange c (clearReferenced c 2 (s.setEngine c { s.engine c with position := pos }))).view q d =
      if c = d then (s.view q d).afterPosition pos else s.view q d := by
  rw [positionChange_view, (clearReferenced_only c 2 _).view_eq (by decide), clearReferenced_engine, if_pos rfl,
    State.setEngine_view, State.engine_setEngine_self]

/-! ### Counted steps and homing loads (R28, R34) -/

theorem countStep_engine (c d : Chan) (step : Word) (s : State) :
    (countStep c step s).engine d =
      if c = d then { s.engine d with position := (s.engine d).position + step } else s.engine d := by
  unfold countStep
  dsimp only
  rw [(positionChange_only c _).engine_eq (by decide), (primaryEvent_only c _).engine_eq (by decide),
    State.engine_setEngine]
  split
  · rename_i here; subst here; rfl
  · rfl

theorem countStep_view (c : Chan) (step : Word) (q : Port) (d : Chan) (s : State) :
    (countStep c step s).view q d =
      if c = d then (s.view q d).afterPrimary.afterPosition ((s.engine c).position + step) else s.view q d := by
  unfold countStep
  dsimp only
  rw [positionChange_view, (primaryEvent_only c _).engine_eq (by decide), primaryEvent_view, State.setEngine_view,
    State.engine_setEngine_self]
  split <;> rfl

theorem homingLoad_engine (c d : Chan) (s : State) :
    (homingLoad c s).engine d =
      if c = d then { s.engine d with
        position := (s.chanSettings c).homeValue, referenced := true, homingArmed := false }
      else s.engine d := by
  unfold homingLoad
  dsimp only
  rw [(positionChange_only c _).engine_eq (by decide), (noticeViews_only _ _ _ _ _).engine_eq (by decide),
    State.engine_setEngine]
  split
  · rename_i here; subst here; rfl
  · rfl

theorem homingLoad_view (c : Chan) (q : Port) (d : Chan) (s : State) :
    (homingLoad c s).view q d =
      if c = d then (s.view q d).afterPosition (s.chanSettings c).homeValue else s.view q d := by
  unfold homingLoad
  dsimp only
  rw [positionChange_view, (noticeViews_only _ _ _ _ _).engine_eq (by decide),
    (noticeViews_only _ _ _ _ _).view_eq (by decide), State.setEngine_view, State.engine_setEngine_self]

/-! ### Samples and expiries as chains of effects -/

/-- One effect of a sample or an overrange expiry, with the fields it can write. -/
inductive Effect : List Field → State → State → Prop
  | lines (s : State) (c : Chan) (x : ChanLines) : Effect [.lines] s (s.setChanLines c x)
  | cap (s : State) (n : CapIdx) (x : CapConditioner) : Effect [.caps] s (s.setCap n x)
  | engine (s : State) (c : Chan) (x : Engine) (stays : x.position = (s.engine c).position) :
      Effect [.engines] s (s.setEngine c x)
  | fault (s : State) (c : Chan) : Effect [.engines, .views, .queues, .intLine] s (faultEvent c s)
  | cleared (s : State) (c : Chan) (cause : Word) :
      Effect [.engines, .queues, .intLine] s (clearReferenced c cause s)
  | primary (s : State) (c : Chan) : Effect [.views, .queues, .intLine] s (primaryEvent c s)
  | stepped (s : State) (c : Chan) (step : Word) (quad : (s.chanSettings c).mode = .quad) :
      Effect [.engines, .views, .queues, .intLine] s (countStep c step s)
  | pushed (s : State) (c : Chan) (kind : EntryKind) (value : Word) (overrange homing : Bool) :
      Effect [.rings, .views, .queues, .intLine] s (pushEntry c kind value overrange homing s)
  | homed (s : State) (c : Chan) (quad : (s.chanSettings c).mode = .quad) :
      Effect [.engines, .views, .queues, .intLine] s (homingLoad c s)
  | captured (s : State) (cause : CaptureCause) : Effect [.slots, .queues, .intLine] s (captureEvent cause s)

theorem Effect.only {fs : List Field} {s t : State} (e : Effect fs s t) : SameExcept fs s t := by
  cases e with
  | lines => exact setChanLines_only _ _ _
  | cap => exact setCap_only _ _ _
  | engine => exact setEngine_only _ _ _
  | fault => exact faultEvent_only _ _
  | cleared => exact clearReferenced_only _ _ _
  | primary => exact primaryEvent_only _ _
  | stepped => exact countStep_only _ _ _
  | pushed => exact pushEntry_only _ _ _ _ _ _
  | homed => exact homingLoad_only _ _
  | captured => exact captureEvent_only _ _

/-- A chain of effects. -/
def Effects : State → State → Prop := Relation.ReflTransGen fun s t => ∃ fs, Effect fs s t

namespace Effects

theorem refl (s : State) : Effects s s := Relation.ReflTransGen.refl

theorem one {fs : List Field} {s t : State} (e : Effect fs s t) : Effects s t :=
  Relation.ReflTransGen.single ⟨fs, e⟩

theorem trans {s t u : State} (h : Effects s t) (k : Effects t u) : Effects s u := Relation.ReflTransGen.trans h k

theorem andThen {fs : List Field} {s t u : State} (h : Effects s t) (e : Effect fs t u) : Effects s u :=
  h.trans (one e)

theorem keeps {Inv : State → Prop} (each : ∀ {fs s t}, Effect fs s t → Inv s → Inv t) {s t : State}
    (h : Effects s t) (inv : Inv s) : Inv t := by
  induction h with
  | refl => exact inv
  | tail _ e ih => exact each e.choose_spec ih

end Effects

theorem glitchFaults_effects (c : Chan) (a b z : Bool) (s : State) : Effects s (glitchFaults c a b z s) :=
  have one (x : Bool) (u : State) : Effects u (if x then faultEvent c u else u) := by
    split
    · exact .one (.fault u c)
    · exact .refl u
  ((one a s).trans (one b _)).trans (one z _)

theorem takeDecoderState_effects (c : Chan) (s : State) : Effects s (takeDecoderState c s) :=
  Effects.one (Effect.engine s c { s.engine c with modeState := .quad (filteredAB (s.chanLines c)) } rfl)

theorem legalTransition_effects {c : Chan} {s : State} (quad : (s.chanSettings c).mode = .quad) :
    Effects s (legalTransition c s) := by
  unfold legalTransition
  dsimp only
  split
  · split
    · exact (takeDecoderState_effects c s).andThen (.stepped _ c _ quad)
    · exact takeDecoderState_effects c s
  · exact takeDecoderState_effects c s

theorem phaseError_effects (c : Chan) (s : State) : Effects s (phaseError c s) :=
  ((Effects.one (.fault s c)).trans (takeDecoderState_effects c _)).andThen (.cleared _ c 1)

theorem qualifiedIndex_effects {c : Chan} {s : State} (quad : (s.chanSettings c).mode = .quad) :
    Effects s (qualifiedIndex c s) := by
  have pushed : Effects s (pushEntry c .index (s.engine c).position false (s.engine c).homingArmed s) :=
    .one (.pushed s c _ _ _ _)
  have mode : ((pushEntry c .index (s.engine c).position false (s.engine c).homingArmed s).chanSettings c).mode
      = .quad := by rw [(pushEntry_only c _ _ _ _ s).chanSettings_eq (by decide)]; exact quad
  unfold qualifiedIndex
  dsimp only
  split
  · exact (pushed.andThen (.homed _ c mode)).andThen (.captured _ _)
  · exact pushed.andThen (.captured _ _)

theorem evalIndex_effects {c : Chan} {s : State} (quad : (s.chanSettings c).mode = .quad) :
    Effects s (evalIndex c s) := by
  have set (x : Bool) : Effects s (s.setEngine c { s.engine c with indexCond := x }) := .one (.engine s c _ rfl)
  unfold evalIndex
  dsimp only
  split
  · exact (set _).trans (qualifiedIndex_effects quad)
  · exact set _

theorem reportQuad_effects {c : Chan} {s : State} (quad : (s.chanSettings c).mode = .quad) (r : Report) :
    Effects s (reportQuad c r s) := by
  have decoded {u : State} (quad : (u.chanSettings c).mode = .quad) :
      Effects u (if r.edgeA && r.edgeB then phaseError c u
        else if r.edgeA || r.edgeB then legalTransition c u else u) ∧
      ((if r.edgeA && r.edgeB then phaseError c u
        else if r.edgeA || r.edgeB then legalTransition c u else u).chanSettings c).mode = .quad := by
    split
    · exact ⟨phaseError_effects c u, by rwa [(phaseError_only c u).chanSettings_eq (by decide)]⟩
    · split
      · exact ⟨legalTransition_effects quad, by rwa [(legalTransition_only c u).chanSettings_eq (by decide)]⟩
      · exact ⟨.refl u, quad⟩
  have evaluated {u : State} (quad : (u.chanSettings c).mode = .quad) :
      Effects u (if r.edgeA || r.edgeB || r.edgeZ then evalIndex c u else u) := by
    split
    · exact evalIndex_effects quad
    · exact .refl u
  have faulted := glitchFaults_only c r.glitchA r.glitchB (r.glitchZ && (s.chanSettings c).indexQuadrant.isSome) s
  have mode := (congrArg ChanSettings.mode (faulted.chanSettings_eq (by decide) c)).trans quad
  exact ((glitchFaults_effects c _ _ _ s).trans (decoded mode).1).trans (evaluated (decoded mode).2)

theorem countEdge_effects (c : Chan) (s : State) : Effects s (countEdge c s) :=
  (Effects.one (.engine s c { s.engine c with runningCount := (s.engine c).runningCount + 1 } rfl)).andThen
    (.primary _ c)

theorem reportTally_effects (c : Chan) (r : Report) (s : State) : Effects s (reportTally c r s) := by
  have gated (m : ModeState) (u : State) :
      Effects u (if r.edgeB then u.setEngine c { u.engine c with modeState := m } else u) := by
    split
    · exact .one (.engine u c _ rfl)
    · exact .refl u
  have counted (test : Bool) (u : State) :
      Effects u (if test && (u.engine c).modeState == .gateOpen then countEdge c u else u) := by
    split
    · exact countEdge_effects c u
    · exact .refl u
  exact ((glitchFaults_effects c _ _ _ s).trans (gated _ _)).trans (counted _ _)

theorem endMeasurement_effects (c : Chan) (kind : EntryKind) (value : Word) (overrange : Bool) (s : State) :
    Effects s (endMeasurement c kind value overrange s) :=
  (Effects.one (.pushed s c kind value overrange false)).andThen (.primary _ c)

theorem setModeState_effects (c : Chan) (m : ModeState) (s : State) : Effects s (setModeState c m s) :=
  .one (.engine s c _ rfl)

theorem spanEdge_effects (c : Chan) (s : State) : Effects s (spanEdge c s) := by
  unfold spanEdge
  split
  · exact (endMeasurement_effects c _ _ _ s).trans (setModeState_effects c _ _)
  · exact setModeState_effects c _ s

theorem widthEdge_effects (c : Chan) (s : State) : Effects s (widthEdge c s) := by
  unfold widthEdge
  dsimp only
  split
  · split
    · exact .refl s
    · exact setModeState_effects c _ s
  · split
    · exact setModeState_effects c _ s
    · exact .refl s
  · split
    · exact .refl s
    · exact (endMeasurement_effects c _ _ _ s).trans (setModeState_effects c _ _)
  · exact .refl s

theorem takeReport_effects (c : Chan) (r : Report) (s : State) : Effects s (takeReport c r s) := by
  have faulted := glitchFaults_effects c r.glitchA false false s
  unfold takeReport
  split
  · exact .refl s
  · exact reportQuad_effects ‹_› r
  · exact reportTally_effects c r s
  · unfold reportSpan
    dsimp only
    split
    · exact faulted.trans (spanEdge_effects c _)
    · exact faulted
  · unfold reportWidth
    dsimp only
    split
    · exact faulted.trans (widthEdge_effects c _)
    · exact faulted

/-- A sample is a chain of effects (R6, R11, R16). -/
theorem takeSample_effects (u : Sample) (s : State) : Effects s (takeSample u s) := by
  cases u with
  | chan c v =>
    simp only [takeSample]
    split
    · exact (Effects.one (.lines s c _)).trans (takeReport_effects c _ _)
    · exact .one (.lines s c _)
  | cap n v =>
    simp only [takeSample]
    split
    · exact (Effects.one (.cap s n _)).andThen (.captured _ _)
    · exact .one (.cap s n _)

theorem overrangeEnd_effects (c : Chan) (s : State) : Effects s (overrangeEnd c s) := by
  unfold overrangeEnd
  split
  · exact (endMeasurement_effects c _ _ _ s).trans (setModeState_effects c _ _)
  · exact (endMeasurement_effects c _ _ _ s).trans (setModeState_effects c _ _)
  · exact .refl s

end Sys2Proof.Machine
end

section
/-! PROOFS. What every step keeps of the rings and of the views. -/

namespace Sys2Proof.Machine

open Sys2Proof

/-! ### Rings and cursors (R60, R63) -/

/-- A ring holds at most 16 entries with consecutive sequence numbers ending below the next (R60). -/
def Ring.Numbered (r : Ring) : Prop :=
  r.entries.length ≤ 16 ∧
    ∀ k (h : k < r.entries.length), (r.entries[k]).seq + BitVec.ofNat 32 (r.entries.length - k) = r.next

/-- A cursor leaves no more entries unread than a ring holds (R63). -/
def Ring.Reaches (r : Ring) (cursor : Word) : Prop := (r.next - cursor).toNat ≤ r.entries.length

theorem ringInv_iff (s : State) :
    RingInv s ↔ ∀ c, (s.ring c).Numbered ∧ ∀ p, (s.ring c).Reaches (s.view p c).cursor :=
  forall_congr' fun _ => and_assoc.symm

theorem Ring.numbered_nil (next : Word) : (Ring.mk [] next).Numbered := ⟨Nat.zero_le 16, fun _ h => nomatch h⟩

theorem Ring.reaches_next (r : Ring) : r.Reaches r.next := by
  rw [Ring.Reaches, BitVec.sub_self]
  exact Nat.zero_le _

theorem Ring.afterPush_length {r : Ring} (numbered : r.Numbered) (kind : EntryKind) (value : Word) (time : Tick)
    (overrange homing : Bool) :
    (r.afterPush kind value time overrange homing).entries.length = min 16 (r.entries.length + 1) := by
  have most := numbered.1
  unfold Ring.afterPush
  dsimp only
  split <;> simp <;> omega

theorem Ring.numbered_afterPush {r : Ring} (numbered : r.Numbered) (kind : EntryKind) (value : Word) (time : Tick)
    (overrange homing : Bool) : (r.afterPush kind value time overrange homing).Numbered := by
  have length := Ring.afterPush_length numbered kind value time overrange homing
  obtain ⟨most, seqs⟩ := numbered
  refine ⟨by omega, fun k h => ?_⟩
  rw [length] at h ⊢
  have next : (r.afterPush kind value time overrange homing).next = r.next + 1 := rfl
  rw [next]
  by_cases full : 16 ≤ r.entries.length
  · by_cases newest : k = 15
    · have entry : ((r.afterPush kind value time overrange homing).entries[k]).seq = r.next := by
        simp only [Ring.afterPush, if_pos full]
        rw [List.getElem_append_right (by simp; omega)]
        simp
      rw [entry, show min 16 (r.entries.length + 1) - k = 1 by omega]
      rfl
    · have entry : (r.afterPush kind value time overrange homing).entries[k] = r.entries[k + 1] := by
        simp only [Ring.afterPush, if_pos full]
        rw [List.getElem_append_left (by simp; omega), List.getElem_drop]
        simp only [Nat.add_comm]
      rw [entry, ← seqs (k + 1) (by omega), BitVec.add_assoc, show (1 : Word) = BitVec.ofNat 32 1 from rfl,
        ← BitVec.ofNat_add]
      congr 2
      omega
  · by_cases newest : k = r.entries.length
    · have entry : ((r.afterPush kind value time overrange homing).entries[k]).seq = r.next := by
        simp only [Ring.afterPush, if_neg full]
        rw [List.getElem_append_right (by omega)]
        simp
      rw [entry, show min 16 (r.entries.length + 1) - k = 1 by omega]
      rfl
    · have entry : (r.afterPush kind value time overrange homing).entries[k] = r.entries[k] := by
        simp only [Ring.afterPush, if_neg full]
        rw [List.getElem_append_left (by omega)]
      rw [entry, ← seqs k (by omega), BitVec.add_assoc, show (1 : Word) = BitVec.ofNat 32 1 from rfl,
        ← BitVec.ofNat_add]
      congr 2
      omega

/-- A push leaves every cursor within the ring: one on the entry evicted moves to the next (R63, R65). -/
theorem Ring.reaches_afterPush {r : Ring} (numbered : r.Numbered) {v : View} (reaches : r.Reaches v.cursor)
    (kind : EntryKind) (value : Word) (time : Tick) (overrange homing : Bool) :
    (r.afterPush kind value time overrange homing).Reaches (v.charged r).cursor := by
  have length := Ring.afterPush_length numbered kind value time overrange homing
  have next : (r.afterPush kind value time overrange homing).next = r.next + 1 := rfl
  obtain ⟨most, seqs⟩ := numbered
  unfold Ring.Reaches at *
  rw [length, next]
  by_cases full : 16 ≤ r.entries.length
  · have sixteen : r.entries.length = 16 := by omega
    have oldest : r.entries[0].seq + 16 = r.next := by simpa [sixteen] using seqs 0 (by omega)
    have first : r.entries.head? = some r.entries[0] := by rw [List.head?_eq_getElem?, List.getElem?_eq_getElem]
    unfold View.charged
    rw [first]
    dsimp only
    by_cases on : v.cursor = r.entries[0].seq
    · rw [if_pos ⟨full, on⟩, ← oldest]
      bv_omega
    · rw [if_neg fun h => on h.2]
      have apart : v.cursor ≠ r.next - 16 := fun h => on (h.trans (by rw [← oldest]; bv_omega))
      generalize r.next = n at *
      generalize v.cursor = k at *
      bv_omega
  · have kept : v.charged r = v := by
      unfold View.charged
      split
      · rw [if_neg fun h => full h.1]
      · rfl
    rw [kept]
    generalize r.next = n at *
    generalize v.cursor = k at *
    bv_omega

theorem View.afterPrimary_cursor (v : View) : v.afterPrimary.cursor = v.cursor := by
  unfold View.afterPrimary
  split <;> rfl

theorem View.afterFault_cursor (v : View) : v.afterFault.cursor = v.cursor := by
  unfold View.afterFault
  split <;> rfl

theorem View.afterPosition_cursor (v : View) (pos : Word) : (v.afterPosition pos).cursor = v.cursor := by
  unfold View.afterPosition
  split <;> rfl

theorem ringInv_of_cursors {s t : State} (rings : ∀ c, t.ring c = s.ring c)
    (cursors : ∀ p c, (t.view p c).cursor = (s.view p c).cursor) (inv : RingInv s) : RingInv t := by
  rw [ringInv_iff] at inv ⊢
  simpa only [rings, cursors] using inv

theorem ringInv_of_only {fs : List Field} {s t : State} (h : SameExcept fs s t) (rings : Field.rings ∉ fs)
    (views : Field.views ∉ fs) (inv : RingInv s) : RingInv t :=
  ringInv_of_cursors (h.ring_eq rings) (fun p c => by rw [h.view_eq views]) inv

theorem pushEntry_keeps_ringInv {s : State} (c : Chan) (kind : EntryKind) (value : Word) (overrange homing : Bool)
    (inv : RingInv s) : RingInv (pushEntry c kind value overrange homing s) := by
  rw [ringInv_iff] at inv ⊢
  intro d
  obtain ⟨numbered, reaches⟩ := inv d
  rw [pushEntry_ring]
  simp only [pushEntry_view]
  by_cases here : c = d
  · subst here
    simp only [if_true]
    exact ⟨Ring.numbered_afterPush numbered _ _ _ _ _,
      fun p => Ring.reaches_afterPush numbered (reaches p) _ _ _ _ _⟩
  · simp only [if_neg here]
    exact ⟨numbered, reaches⟩

theorem effect_keeps_ringInv {fs : List Field} {s t : State} (e : Effect fs s t) (inv : RingInv s) : RingInv t := by
  by_cases apart : Field.rings ∉ fs ∧ Field.views ∉ fs
  · exact ringInv_of_only e.only apart.1 apart.2 inv
  · cases e with
    | fault _ c =>
      refine ringInv_of_cursors ((faultEvent_only c s).ring_eq (by decide)) (fun p d => ?_) inv
      rw [faultEvent_view]
      split
      · exact View.afterFault_cursor _
      · rfl
    | primary _ c =>
      refine ringInv_of_cursors ((primaryEvent_only c s).ring_eq (by decide)) (fun p d => ?_) inv
      rw [primaryEvent_view]
      split
      · exact View.afterPrimary_cursor _
      · rfl
    | stepped _ c step =>
      refine ringInv_of_cursors ((countStep_only c step s).ring_eq (by decide)) (fun p d => ?_) inv
      rw [countStep_view]
      split
      · rw [View.afterPosition_cursor, View.afterPrimary_cursor]
      · rfl
    | pushed _ c => exact pushEntry_keeps_ringInv c _ _ _ _ inv
    | homed _ c =>
      refine ringInv_of_cursors ((homingLoad_only c s).ring_eq (by decide)) (fun p d => ?_) inv
      rw [homingLoad_view]
      split
      · exact View.afterPosition_cursor _ _
      · rfl
    | _ => exact absurd (by decide) apart

theorem ringInv_of_fresh {s : State} (rings : ∀ c, (s.ring c).entries = [])
    (cursors : ∀ p c, (s.view p c).cursor = (s.ring c).next) : RingInv s := by
  refine (ringInv_iff s).mpr fun c => ?_
  have empty : s.ring c = { entries := [], next := (s.ring c).next } := by
    rw [← rings c]
  refine ⟨?_, fun p => ?_⟩
  · rw [empty]
    exact Ring.numbered_nil _
  · rw [cursors]
    exact Ring.reaches_next _

theorem ringInv_of_reset {s : State} (rings : s.rings = State.reset.rings) (views : s.views = State.reset.views) :
    RingInv s :=
  ringInv_of_fresh (fun c => by simp [State.ring, rings, State.reset, Ring.reset])
    (fun p c => by simp [State.ring, State.view, rings, views, State.reset, Ring.reset, View.fresh])

theorem storeChannel_keeps_ringInv (c : Chan) (new : ChanSettings) {s : State} (inv : RingInv s) :
    RingInv (storeChannel c new s).1 := by
  unfold storeChannel
  split <;> dsimp only
  · rw [ringInv_iff] at inv ⊢
    intro d
    rw [reconfigure_ring]
    simp only [reconfigure_view]
    by_cases here : c = d
    · subst here
      simp only [if_true]
      exact ⟨Ring.numbered_nil _, fun p => Ring.reaches_next ⟨[], (s.ring c).next⟩⟩
    · simp only [if_neg here]
      exact inv d
  · exact ringInv_of_only (tuningChange_only c new s) (by decide) (by decide) inv

theorem setView_keeps_ringInv {s : State} (p : Port) (c : Chan) (v : View) (reaches : (s.ring c).Reaches v.cursor)
    (inv : RingInv s) : RingInv (s.setView p c v) := by
  rw [ringInv_iff] at inv ⊢
  refine fun d => ⟨(inv d).1, fun q => ?_⟩
  rw [State.view_setView]
  split
  · rename_i here
    obtain ⟨rfl, rfl⟩ := here
    exact reaches
  · exact (inv d).2 q

theorem Ring.reaches_drained {r : Ring} {cursor : Word} (reaches : r.Reaches cursor) {k : Nat}
    (most : k ≤ (r.next - cursor).toNat) : r.Reaches (cursor + BitVec.ofNat 32 k) := by
  unfold Ring.Reaches at *
  generalize r.next = n at *
  bv_omega

theorem drainBody_keeps_ringInv (p : Port) (pl : List Byte) (c : Chan) {s : State} (inv : RingInv s) :
    RingInv (drainBody p pl c s).1 := by
  unfold drainBody
  dsimp only
  split
  · exact setView_keeps_ringInv p c _
      (Ring.reaches_drained (((ringInv_iff s).mp inv c).2 p) (Nat.min_le_right _ _)) inv
  · exact inv

theorem portResetBody_keeps_ringInv (p : Port) (pl : List Byte) {s : State} (inv : RingInv s) :
    RingInv (portResetBody p pl s).1 := by
  rw [ringInv_iff] at inv ⊢
  intro c
  rw [(portResetBody_only p pl s).ring_eq (by decide)]
  refine ⟨(inv c).1, fun q => ?_⟩
  rw [portResetBody_view]
  split
  · exact Ring.reaches_next _
  · exact (inv c).2 q

theorem presetBody_keeps_ringInv (pl : List Byte) (c : Chan) {s : State} (inv : RingInv s) :
    RingInv (presetBody pl c s).1 := by
  refine ringInv_of_cursors ((presetBody_only pl c s).ring_eq (by decide)) (fun p d => ?_) inv
  by_cases quad : (s.chanSettings c).mode = .quad
  · rw [presetBody_of_quad quad]
    dsimp only
    rw [preset_view]
    split
    · exact View.afterPosition_cursor _ _
    · rfl
  · rw [presetBody_of_other quad]

theorem move_keeps_ringInv {fs : List Field} {s t : State} (m : Move fs s t) (inv : RingInv s) : RingInv t := by
  by_cases apart : Field.rings ∉ fs ∧ Field.views ∉ fs
  · exact ringInv_of_only m.only apart.1 apart.2 inv
  · cases m with
    | startReset => exact ringInv_of_reset rfl rfl
    | sample _ u => exact (takeSample_effects u s).keeps effect_keeps_ringInv inv
    | overrange _ c => exact (overrangeEnd_effects c s).keeps effect_keeps_ringInv inv
    | setChannel _ c new => exact storeChannel_keeps_ringInv c new inv
    | preset _ pl c => exact presetBody_keeps_ringInv pl c inv
    | take _ p c => exact setView_keeps_ringInv p c _ (((ringInv_iff s).mp inv c).2 p) inv
    | setView _ p c w =>
      refine ringInv_of_cursors ((storeView_only p c w s).ring_eq (by decide)) (fun q d => ?_) inv
      rw [storeView_view]
      split <;> rfl
    | drain _ p pl c => exact drainBody_keeps_ringInv p pl c inv
    | portReset _ p pl => exact portResetBody_keeps_ringInv p pl inv
    | deviceReset => exact ringInv_of_reset rfl rfl
    | _ => exact absurd (by decide) apart

/-- Settles O54: a push keeps the numbers consecutive and moves the cursor it charges; everything else that writes a
cursor leaves it at the next number or reads no further than what is unread. -/
theorem stepKeepsRingInv : Obligations.StepKeepsRingInv := by
  unfold Obligations.StepKeepsRingInv
  exact fun s t inv h => (step_moves h).keeps move_keeps_ringInv inv

end Sys2Proof.Machine
end

section
/-! PROOFS. What every step keeps of the marks and window states of the views. -/

namespace Sys2Proof.Machine

open Sys2Proof

/-! ### The marks of a view (R75 to R80) -/

/-- An above mark is set exactly while its delta exceeds a nonzero threshold, a saturated mark only on a full
delta. -/
def View.MarksFit (v : View) : Prop :=
  (v.eventAbove = true ↔ v.eventThreshold ≠ 0 ∧ v.eventThreshold < v.eventDelta) ∧
    (v.faultAbove = true ↔ v.faultThreshold ≠ 0 ∧ v.faultThreshold < v.faultDelta) ∧
    (v.eventSat = true → v.eventDelta = BitVec.allOnes 32) ∧
    (v.faultSat = true → v.faultDelta = BitVec.allOnes 16)

theorem viewMarksInv_iff (s : State) : ViewMarksInv s ↔ ∀ p c, (s.view p c).MarksFit := Iff.rfl

/-- Below its largest value a delta that grows by 1 passes its threshold exactly where it reaches it from at or
below. -/
theorem above_of_succ {w : Nat} {delta threshold : BitVec w} (room : delta ≠ BitVec.allOnes w) :
    (threshold ≠ 0 ∧ threshold < delta) ∨ (threshold ≠ 0 ∧ delta ≤ threshold ∧ threshold < delta + 1) ↔
      threshold ≠ 0 ∧ threshold < delta + 1 := by
  have next : (delta + 1).toNat = delta.toNat + 1 := by
    have small := delta.isLt
    have apart : delta.toNat ≠ 2 ^ w - 1 := fun h => room (BitVec.eq_of_toNat_eq (by rw [h, BitVec.toNat_allOnes]))
    rw [BitVec.toNat_add, show (1 : BitVec w) = BitVec.ofNat w 1 from rfl, BitVec.toNat_ofNat, Nat.add_mod_mod,
      Nat.mod_eq_of_lt (by omega)]
  simp only [BitVec.lt_def, BitVec.le_def, next]
  by_cases on : threshold = 0
  · simp [on]
  · simp only [ne_eq, on, not_false_eq_true, true_and]
    omega

theorem View.marksFit_afterPrimary {v : View} (fit : v.MarksFit) : v.afterPrimary.MarksFit := by
  obtain ⟨event, fault, eventFull, faultFull⟩ := fit
  unfold View.afterPrimary
  split
  · rename_i full
    exact ⟨event, fault, fun _ => full, faultFull⟩
  · rename_i room
    refine ⟨?_, fault, fun sat => absurd (eventFull sat) room, faultFull⟩
    dsimp only
    rw [Bool.or_eq_true, decide_eq_true_iff, event]
    exact above_of_succ room

theorem View.marksFit_afterFault {v : View} (fit : v.MarksFit) : v.afterFault.MarksFit := by
  obtain ⟨event, fault, eventFull, faultFull⟩ := fit
  unfold View.afterFault
  split
  · rename_i full
    exact ⟨event, fault, eventFull, fun _ => full⟩
  · rename_i room
    refine ⟨event, ?_, eventFull, fun sat => absurd (faultFull sat) room⟩
    dsimp only
    rw [Bool.or_eq_true, decide_eq_true_iff, fault]
    exact above_of_succ room

theorem View.marksFit_afterPosition {v : View} (fit : v.MarksFit) (pos : Word) : (v.afterPosition pos).MarksFit := by
  unfold View.afterPosition
  split <;> exact fit

theorem View.marksFit_charged {v : View} (fit : v.MarksFit) (r : Ring) : (v.charged r).MarksFit := by
  unfold View.charged
  split
  · split <;> exact fit
  · exact fit

theorem View.marksFit_zeroed {v : View} (since : Tick) : (v.zeroed since).MarksFit := by
  simp [View.MarksFit, View.zeroed]

theorem View.marksFit_fresh (since : Tick) (cursor : Word) : (View.fresh since cursor).MarksFit := by
  simp [View.MarksFit, View.fresh]

theorem isAbove_iff {w : Nat} (threshold delta : BitVec w) :
    isAbove threshold delta = true ↔ threshold ≠ 0 ∧ threshold < delta := decide_eq_true_iff

theorem View.marksFit_stored {v : View} (fit : v.MarksFit) (w : ViewSettings) (mode : Mode) (pos : Word) :
    (v.stored w mode pos).MarksFit :=
  ⟨isAbove_iff _ _, isAbove_iff _ _, fit.2.2⟩

theorem marksInv_of_views {s t : State} (fit : ∀ p c, (s.view p c).MarksFit → (t.view p c).MarksFit)
    (inv : ViewMarksInv s) : ViewMarksInv t := fun p c => fit p c (inv p c)

theorem marksInv_of_only {fs : List Field} {s t : State} (h : SameExcept fs s t) (views : Field.views ∉ fs)
    (inv : ViewMarksInv s) : ViewMarksInv t :=
  marksInv_of_views (fun p c fit => by rwa [h.view_eq views]) inv

theorem effect_keeps_marksInv {fs : List Field} {s t : State} (e : Effect fs s t) (inv : ViewMarksInv s) :
    ViewMarksInv t := by
  by_cases apart : Field.views ∉ fs
  · exact marksInv_of_only e.only apart inv
  · refine marksInv_of_views (fun p d fit => ?_) inv
    cases e with
    | fault _ c =>
      rw [faultEvent_view]
      split
      · exact View.marksFit_afterFault fit
      · exact fit
    | primary _ c =>
      rw [primaryEvent_view]
      split
      · exact View.marksFit_afterPrimary fit
      · exact fit
    | stepped _ c step =>
      rw [countStep_view]
      split
      · exact View.marksFit_afterPosition (View.marksFit_afterPrimary fit) _
      · exact fit
    | pushed _ c =>
      rw [pushEntry_view]
      split
      · exact View.marksFit_charged fit _
      · exact fit
    | homed _ c =>
      rw [homingLoad_view]
      split
      · exact View.marksFit_afterPosition fit _
      · exact fit
    | _ => exact absurd (by decide) apart

theorem marksInv_of_reset {s : State} (views : s.views = State.reset.views) : ViewMarksInv s := fun p c => by
  have fresh : s.view p c = View.fresh 0 0 := by simp [State.view, views, State.reset]
  rw [fresh]
  exact View.marksFit_fresh 0 0

theorem move_keeps_marksInv {fs : List Field} {s t : State} (m : Move fs s t) (inv : ViewMarksInv s) :
    ViewMarksInv t := by
  by_cases apart : Field.views ∉ fs
  · exact marksInv_of_only m.only apart inv
  · cases m with
    | startReset => exact marksInv_of_reset rfl
    | sample _ u => exact (takeSample_effects u s).keeps effect_keeps_marksInv inv
    | overrange _ c => exact (overrangeEnd_effects c s).keeps effect_keeps_marksInv inv
    | setChannel _ c new =>
      unfold storeChannel
      split <;> dsimp only
      · refine marksInv_of_views (fun p d fit => ?_) inv
        rw [reconfigure_view]
        split
        · exact View.marksFit_zeroed (v := s.view p d) s.now
        · exact fit
      · exact marksInv_of_only (tuningChange_only c new s) (by decide) inv
    | preset _ pl c =>
      refine marksInv_of_views (fun p d fit => ?_) inv
      by_cases quad : (s.chanSettings c).mode = .quad
      · rw [presetBody_of_quad quad]
        dsimp only
        rw [preset_view]
        split
        · exact View.marksFit_afterPosition fit _
        · exact fit
      · rwa [presetBody_of_other quad]
    | take _ p c =>
      refine marksInv_of_views (fun q d fit => ?_) inv
      unfold takeBody
      dsimp only
      rw [State.view_setView]
      split
      · exact View.marksFit_zeroed _
      · exact fit
    | setView _ p c w =>
      refine marksInv_of_views (fun q d fit => ?_) inv
      rw [storeView_view]
      split
      · exact View.marksFit_stored fit _ _ _
      · exact fit
    | drain _ p pl c =>
      refine marksInv_of_views (fun q d fit => ?_) inv
      unfold drainBody
      dsimp only
      split
      · dsimp only
        rw [State.view_setView]
        split
        · rename_i here
          obtain ⟨rfl, rfl⟩ := here
          exact fit
        · exact fit
      · exact fit
    | portReset _ p pl =>
      refine marksInv_of_views (fun q d fit => ?_) inv
      rw [portResetBody_view]
      split
      · exact View.marksFit_fresh _ _
      · exact fit
    | deviceReset => exact marksInv_of_reset rfl
    | _ => exact absurd (by decide) apart

/-! ### The window states (R86, R88, R89) -/

/-- A view's window state is that of its window, its channel's mode and position. -/
def View.WindowFits (v : View) (mode : Mode) (pos : Word) : Prop := v.windowState = windowStateFor v mode pos

/-- The window law of one view in a state. -/
def State.windowFits (s : State) (p : Port) (c : Chan) : Prop :=
  (s.view p c).WindowFits (s.chanSettings c).mode (s.engine c).position

theorem windowInv_iff (s : State) : WindowInv s ↔ ∀ p c, s.windowFits p c := by
  have same (p : Port) (c : Chan) : (if (s.view p c).windowOn = true ∧ (s.chanSettings c).mode = .quad then
        some (windowStateOf (s.view p c).low (s.view p c).high (s.engine c).position) else none) =
      windowStateFor (s.view p c) (s.chanSettings c).mode (s.engine c).position := by
    simp only [windowStateFor, Bool.and_eq_true, beq_iff_eq]
  unfold WindowInv State.windowFits View.WindowFits
  simp only [same]

theorem View.windowFits_afterPrimary {v : View} {mode : Mode} {pos : Word} (fits : v.WindowFits mode pos) :
    v.afterPrimary.WindowFits mode pos := by
  unfold View.afterPrimary
  split <;> exact fits

theorem View.windowFits_afterFault {v : View} {mode : Mode} {pos : Word} (fits : v.WindowFits mode pos) :
    v.afterFault.WindowFits mode pos := by
  unfold View.afterFault
  split <;> exact fits

theorem View.windowFits_charged {v : View} {mode : Mode} {pos : Word} (fits : v.WindowFits mode pos) (r : Ring) :
    (v.charged r).WindowFits mode pos := by
  unfold View.charged
  split
  · split <;> exact fits
  · exact fits

/-- In QUAD a window follows a position change (R88). -/
theorem View.windowFits_afterPosition {v : View} {old : Word} (fits : v.WindowFits .quad old) (pos : Word) :
    (v.afterPosition pos).WindowFits .quad pos := by
  unfold View.afterPosition View.WindowFits windowStateFor at *
  split
  · rename_i on
    simp [on]
  · rename_i off
    simp_all

theorem View.windowFits_fresh (since : Tick) (cursor : Word) (mode : Mode) (pos : Word) :
    (View.fresh since cursor).WindowFits mode pos := rfl

theorem windowInv_of_views {s t : State} (settings : ∀ c, (t.chanSettings c).mode = (s.chanSettings c).mode)
    (fits : ∀ p c, s.windowFits p c → (t.view p c).WindowFits (s.chanSettings c).mode (t.engine c).position)
    (inv : WindowInv s) : WindowInv t := by
  rw [windowInv_iff] at inv ⊢
  intro p c
  unfold State.windowFits
  rw [settings]
  exact fits p c (inv p c)

theorem windowInv_of_only {fs : List Field} {s t : State} (h : SameExcept fs s t) (settings : Field.settings ∉ fs)
    (views : Field.views ∉ fs) (positions : ∀ c, (t.engine c).position = (s.engine c).position) (inv : WindowInv s) :
    WindowInv t :=
  windowInv_of_views (fun c => by rw [h.chanSettings_eq settings])
    (fun p c fits => by rwa [h.view_eq views, positions]) inv

theorem effect_keeps_windowInv {fs : List Field} {s t : State} (e : Effect fs s t) (inv : WindowInv s) :
    WindowInv t := by
  have settings : Field.settings ∉ fs := by cases e <;> decide
  by_cases apart : Field.views ∉ fs ∧ Field.engines ∉ fs
  · exact windowInv_of_only e.only settings apart.1 (fun c => by rw [e.only.engine_eq apart.2]) inv
  · refine windowInv_of_views (fun c => by rw [e.only.chanSettings_eq settings]) (fun p d fits => ?_) inv
    unfold State.windowFits at fits
    cases e with
    | engine _ c x stays =>
      rw [State.setEngine_view, State.engine_setEngine]
      split
      · rename_i here; subst here; rwa [stays]
      · exact fits
    | cleared _ c cause =>
      rw [(clearReferenced_only c cause s).view_eq (by decide), clearReferenced_engine]
      split <;> exact fits
    | fault _ c =>
      rw [faultEvent_view, faultEvent_engine]
      split
      · exact View.windowFits_afterFault fits
      · exact fits
    | primary _ c =>
      rw [primaryEvent_view, (primaryEvent_only c s).engine_eq (by decide)]
      split
      · exact View.windowFits_afterPrimary fits
      · exact fits
    | stepped _ c step quad =>
      rw [countStep_view, countStep_engine]
      split
      · rename_i here
        subst here
        rw [quad] at fits ⊢
        exact View.windowFits_afterPosition (View.windowFits_afterPrimary fits) _
      · exact fits
    | pushed _ c =>
      rw [pushEntry_view, (pushEntry_only c _ _ _ _ s).engine_eq (by decide)]
      split
      · exact View.windowFits_charged fits _
      · exact fits
    | homed _ c quad =>
      rw [homingLoad_view, homingLoad_engine]
      split
      · rename_i here
        subst here
        rw [quad] at fits ⊢
        exact View.windowFits_afterPosition fits _
      · exact fits
    | _ => exact absurd (by decide) apart

theorem windowInv_of_reset {s : State} (views : s.views = State.reset.views) : WindowInv s :=
  (windowInv_iff s).mpr fun p c => by
    have fresh : s.view p c = View.fresh 0 0 := by simp [State.view, views, State.reset]
    unfold State.windowFits
    rw [fresh]
    exact View.windowFits_fresh _ _ _ _

theorem Engine.tuned_position (old new : ChanSettings) (l : ChanLines) (e : Engine) :
    (e.tuned old new l).position = e.position := by
  unfold Engine.tuned
  split
  · split
    · rfl
    · split <;> rfl
  · rfl

theorem storeChannel_keeps_windowInv (c : Chan) (new : ChanSettings) {s : State} (inv : WindowInv s) :
    WindowInv (storeChannel c new s).1 := by
  rw [windowInv_iff] at inv ⊢
  intro p d
  have fits := inv p d
  unfold State.windowFits at *
  unfold storeChannel
  split <;> dsimp only
  · rw [reconfigure_view, reconfigure_chanSettings, reconfigure_engine]
    split
    · rfl
    · exact fits
  · rename_i tunes
    have record := structuralDiffers_eq_false.mp (Bool.eq_false_of_not_eq_true tunes)
    have mode : new.mode = (s.chanSettings c).mode := (congrArg ChanSettings.mode record).symm
    rw [(tuningChange_only c new s).view_eq (by decide), tuningChange_chanSettings, tuningChange_engine]
    split
    · rename_i here
      subst here
      rwa [mode, Engine.tuned_position]
    · exact fits

theorem presetBody_keeps_windowInv (pl : List Byte) (c : Chan) {s : State} (inv : WindowInv s) :
    WindowInv (presetBody pl c s).1 := by
  by_cases quad : (s.chanSettings c).mode = .quad
  · refine windowInv_of_views
      (fun d => by rw [(presetBody_only pl c s).chanSettings_eq (by decide)]) (fun p d fits => ?_) inv
    unfold State.windowFits at fits
    rw [presetBody_of_quad quad]
    dsimp only
    rw [preset_view, preset_engine]
    split
    · rename_i here
      subst here
      rw [quad] at fits ⊢
      exact View.windowFits_afterPosition fits _
    · exact fits
  · rwa [presetBody_of_other quad]

theorem setEngine_keeps_windowInv {s : State} (c : Chan) (x : Engine) (stays : x.position = (s.engine c).position)
    (inv : WindowInv s) : WindowInv (s.setEngine c x) :=
  effect_keeps_windowInv (.engine s c x stays) inv

theorem move_keeps_windowInv {fs : List Field} {s t : State} (m : Move fs s t) (inv : WindowInv s) :
    WindowInv t := by
  by_cases apart : Field.settings ∉ fs ∧ Field.views ∉ fs ∧ Field.engines ∉ fs
  · obtain ⟨settings, views, engines⟩ := apart
    exact windowInv_of_only m.only settings views (fun c => by rw [m.only.engine_eq engines]) inv
  · cases m with
    | startReset => exact windowInv_of_reset rfl
    | sample _ u => exact (takeSample_effects u s).keeps effect_keeps_windowInv inv
    | overrange _ c => exact (overrangeEnd_effects c s).keeps effect_keeps_windowInv inv
    | setChannel _ c new => exact storeChannel_keeps_windowInv c new inv
    | preset _ pl c => exact presetBody_keeps_windowInv pl c inv
    | home _ c =>
      unfold homeBody
      dsimp only
      split
      · exact setEngine_keeps_windowInv c _ rfl inv
      · exact inv
    | homeCancel _ c => exact setEngine_keeps_windowInv c _ rfl inv
    | take _ p c =>
      refine windowInv_of_views (s := s) (fun _ => rfl) (fun q d fits => ?_) inv
      unfold takeBody
      dsimp only
      rw [State.view_setView]
      split
      · rename_i here
        obtain ⟨rfl, rfl⟩ := here
        exact fits
      · exact fits
    | setView _ p c w =>
      have only := storeView_only p c w s
      refine windowInv_of_views (fun d => by rw [only.chanSettings_eq (by decide)]) (fun q d fits => ?_) inv
      rw [storeView_view, only.engine_eq (by decide)]
      split
      · rename_i here
        obtain ⟨rfl, rfl⟩ := here
        rfl
      · exact fits
    | drain _ p pl c =>
      have only := drainBody_only p pl c s
      refine windowInv_of_views (fun d => by rw [only.chanSettings_eq (by decide)]) (fun q d fits => ?_) inv
      rw [only.engine_eq (by decide)]
      unfold drainBody
      dsimp only
      split
      · dsimp only
        rw [State.view_setView]
        split
        · rename_i here
          obtain ⟨rfl, rfl⟩ := here
          exact fits
        · exact fits
      · exact fits
    | portReset _ p pl =>
      have only := portResetBody_only p pl s
      refine windowInv_of_views (fun d => by rw [only.chanSettings_eq (by decide)]) (fun q d fits => ?_) inv
      rw [portResetBody_view, only.engine_eq (by decide)]
      split
      · exact View.windowFits_fresh _ _ _ _
      · exact fits
    | deviceReset => exact windowInv_of_reset rfl
    | _ => exact absurd (by decide) apart

/-- Settles O56: each event that writes a delta moves its marks with it, and each that writes a position, a mode or a
window recomputes the window state. -/
theorem stepKeepsViewInv : Obligations.StepKeepsViewInv := by
  unfold Obligations.StepKeepsViewInv
  intro s t h
  have moves := step_moves h
  exact ⟨moves.keeps move_keeps_marksInv, moves.keeps move_keeps_windowInv⟩

end Sys2Proof.Machine
end

section
/-! PROOFS. What the events of one channel do to its engine, its ring and the accounts of the ports, and what they
leave to the other channels. -/

namespace Sys2Proof.Machine

open Sys2Proof

/-! ### Events of one channel -/

/-- From `s` to `t` only one channel's part changed: its engine is `e`, its ring `r`, and the accounts of the ports
are `A`. -/
structure ChannelEffect (c : Chan) (s t : State) (e : Engine) (r : Ring) (A : Port → Account) : Prop where
  engine : t.engine c = e
  ring : t.ring c = r
  account : ∀ p, t.account p c = A p
  others : ∀ d, d ≠ c → t.engine d = s.engine d ∧ t.ring d = s.ring d ∧ ∀ p, t.view p d = s.view p d
  only : SameExcept [.engines, .rings, .views, .queues, .intLine] s t

namespace ChannelEffect

theorem refl (c : Chan) (s : State) : ChannelEffect c s s (s.engine c) (s.ring c) fun p => s.account p c :=
  ⟨rfl, rfl, fun _ => rfl, fun _ _ => ⟨rfl, rfl, fun _ => rfl⟩, .refl _ s⟩

variable {c : Chan} {s t u : State} {e : Engine} {r : Ring} {A : Port → Account}

theorem now_eq (h : ChannelEffect c s t e r A) : t.now = s.now := h.only .now (by decide)

theorem chanSettings_eq (h : ChannelEffect c s t e r A) (d : Chan) : t.chanSettings d = s.chanSettings d :=
  h.only.chanSettings_eq (by decide) d

theorem chanLines_eq (h : ChannelEffect c s t e r A) (d : Chan) : t.chanLines d = s.chanLines d :=
  h.only.chanLines_eq (by decide) d

theorem congr {e' : Engine} {r' : Ring} {A' : Port → Account} (h : ChannelEffect c s t e r A) (engine : e = e')
    (ring : r = r') (account : ∀ p, A p = A' p) : ChannelEffect c s t e' r' A' := by
  subst engine ring
  rw [show A' = A from (funext account).symm]
  exact h

/-- A further operation that writes the parts of the channel alone. -/
theorem andThen {e' : Engine} {r' : Ring} {A' : Port → Account} {fs : List Field} (h : ChannelEffect c s t e r A)
    (only : SameExcept fs t u) (parts : ∀ f, f ∈ fs → f ∈ [Field.engines, .rings, .views, .queues, .intLine])
    (engines : ∀ d, u.engine d = if c = d then e' else t.engine d)
    (rings : ∀ d, u.ring d = if c = d then r' else t.ring d)
    (views : ∀ p d, d ≠ c → u.view p d = t.view p d) (account : ∀ p, u.account p c = A' p) :
    ChannelEffect c s u e' r' A' := by
  refine ⟨by rw [engines, if_pos rfl], by rw [rings, if_pos rfl], account, fun d apart => ?_,
    h.only.trans (only.mono parts)⟩
  obtain ⟨engine, ring, view⟩ := h.others d apart
  rw [engines, rings, if_neg apart.symm, if_neg apart.symm]
  exact ⟨engine, ring, fun p => (views p d apart).trans (view p)⟩

theorem ring_of_only (h : ChannelEffect c s t e r A) {fs : List Field} (only : SameExcept fs t u)
    (rings : Field.rings ∉ fs) (d : Chan) : u.ring d = if c = d then r else t.ring d := by
  rw [only.ring_eq rings]
  split
  · rename_i here; subst here; exact h.ring
  · rfl

theorem engine_of_only (h : ChannelEffect c s t e r A) {fs : List Field} (only : SameExcept fs t u)
    (engines : Field.engines ∉ fs) (d : Chan) : u.engine d = if c = d then e else t.engine d := by
  rw [only.engine_eq engines]
  split
  · rename_i here; subst here; exact h.engine
  · rfl

theorem setEngine (h : ChannelEffect c s t e r A) (x : Engine) : ChannelEffect c s (t.setEngine c x) x r A :=
  h.andThen (setEngine_only t c x) (by decide) (fun d => State.engine_setEngine t c d x)
    (h.ring_of_only (setEngine_only t c x) (by decide)) (fun _ _ _ => rfl) h.account

theorem fault (h : ChannelEffect c s t e r A) :
    ChannelEffect c s (faultEvent c t) { e with faultTally := satInc e.faultTally } r
      (fun p => Account.fault c s.now (A p)) :=
  h.andThen (faultEvent_only c t) (by decide)
    (fun d => by
      rw [faultEvent_engine]
      split
      · rename_i here; subst here; rw [h.engine]
      · rfl)
    (h.ring_of_only (faultEvent_only c t) (by decide))
    (fun p d apart => by rw [faultEvent_view, if_neg apart.symm])
    (fun p => by rw [faultEvent_account, h.account, h.now_eq])

theorem primary (h : ChannelEffect c s t e r A) :
    ChannelEffect c s (primaryEvent c t) e r (fun p => Account.primary c s.now (A p)) :=
  h.andThen (primaryEvent_only c t) (by decide) (h.engine_of_only (primaryEvent_only c t) (by decide))
    (h.ring_of_only (primaryEvent_only c t) (by decide))
    (fun p d apart => by rw [primaryEvent_view, if_neg apart.symm])
    (fun p => by rw [primaryEvent_account, h.account, h.now_eq])

theorem news (h : ChannelEffect c s t e r A) (k : NoticeKind) (value aux : Word) :
    ChannelEffect c s (noticeViews c k value aux t) e r (fun p => Account.news c s.now k value aux (A p)) :=
  have only := noticeViews_only c k value aux t
  h.andThen only (by decide) (h.engine_of_only only (by decide)) (h.ring_of_only only (by decide))
    (fun p d _ => only.view_eq (by decide) p d) (fun p => by rw [noticeViews_account, h.account, h.now_eq])

theorem position (h : ChannelEffect c s t e r A) :
    ChannelEffect c s (positionChange c t) e r (fun p => Account.position c s.now e.position (A p)) :=
  have only := positionChange_only c t
  h.andThen only (by decide) (h.engine_of_only only (by decide)) (h.ring_of_only only (by decide))
    (fun p d apart => by rw [positionChange_view, if_neg apart.symm])
    (fun p => by rw [positionChange_account, h.account, h.now_eq, h.engine])

theorem push (h : ChannelEffect c s t e r A) (kind : EntryKind) (value : Word) (overrange homing : Bool) :
    ChannelEffect c s (pushEntry c kind value overrange homing t) e
      (r.afterPush kind value s.now overrange homing) (fun p => Account.push c s.now r (A p)) :=
  have only := pushEntry_only c kind value overrange homing t
  h.andThen only (by decide) (h.engine_of_only only (by decide))
    (fun d => by
      rw [pushEntry_ring, h.now_eq]
      split
      · rename_i here; subst here; rw [h.ring]
      · rfl)
    (fun p d apart => by rw [pushEntry_view, if_neg apart.symm])
    (fun p => by rw [pushEntry_account, h.account, h.now_eq, h.ring])

theorem modeState (h : ChannelEffect c s t e r A) (m : ModeState) :
    ChannelEffect c s (setModeState c m t) { e with modeState := m } r A :=
  (h.setEngine { t.engine c with modeState := m }).congr (by rw [h.engine]) rfl fun _ => rfl

theorem decoder (h : ChannelEffect c s t e r A) :
    ChannelEffect c s (takeDecoderState c t) { e with modeState := .quad (filteredAB (s.chanLines c)) } r A :=
  (h.setEngine { t.engine c with modeState := .quad (filteredAB (t.chanLines c)) }).congr
    (by rw [h.engine, h.chanLines_eq]) rfl fun _ => rfl

theorem countStep (h : ChannelEffect c s t e r A) (step : Word) :
    ChannelEffect c s (countStep c step t) { e with position := e.position + step } r
      (fun p => Account.position c s.now (e.position + step) (Account.primary c s.now (A p))) :=
  ((h.setEngine { t.engine c with position := (t.engine c).position + step }).primary.position).congr
    (by rw [h.engine]) rfl fun p => by rw [h.engine]

theorem clearReferenced (h : ChannelEffect c s t e r A) (cause : Word) :
    ChannelEffect c s (clearReferenced c cause t) { e with referenced := false } r
      (fun p => if e.referenced then Account.news c s.now .referenceLost e.position cause (A p) else A p) := by
  unfold Machine.clearReferenced
  dsimp only
  rw [h.engine]
  split
  · rename_i set
    exact ((h.setEngine { e with referenced := false }).news .referenceLost e.position cause).congr rfl rfl
      fun _ => rfl
  · rename_i clear
    refine h.congr ?_ rfl fun _ => rfl
    have off : e.referenced = false := Bool.eq_false_of_not_eq_true clear
    rw [← off]

theorem homingLoad (h : ChannelEffect c s t e r A) :
    ChannelEffect c s (homingLoad c t)
      { e with position := (s.chanSettings c).homeValue, referenced := true, homingArmed := false } r
      (fun p => Account.position c s.now (s.chanSettings c).homeValue
        (Account.news c s.now .homed e.position (s.chanSettings c).homeValue (A p))) := by
  have loaded := ((h.setEngine { t.engine c with
    position := (t.chanSettings c).homeValue, referenced := true, homingArmed := false }).news .homed
      (t.engine c).position (t.chanSettings c).homeValue).position
  rw [h.engine, h.chanSettings_eq] at loaded
  unfold Machine.homingLoad
  dsimp only
  rw [h.engine, h.chanSettings_eq]
  exact loaded

/-- An effect before which the lines of the channel took their sample. -/
theorem ofSampled {x : ChanLines} (h : ChannelEffect c (s.setChanLines c x) t e r A) :
    (∀ d, d ≠ c → t.engine d = s.engine d ∧ t.ring d = s.ring d ∧ ∀ p, t.view p d = s.view p d) ∧
    SameExcept [.lines, .engines, .rings, .views, .queues, .intLine] s t :=
  ⟨h.others, (setChanLines_only s c x).andThen h.only (by decide)⟩

end ChannelEffect

/-- A field whose table is the same entry by entry is none of those changed. -/
theorem SameExcept.without {fs gs : List Field} {s t : State} (h : SameExcept fs s t) (f : Field)
    (same : f.same s t) (rest : ∀ g, g ∈ fs → g = f ∨ g ∈ gs) : SameExcept gs s t := by
  intro g apart
  by_cases here : g = f
  · subst here; exact same
  · exact h g fun inFs => (rest g inFs).elim here apart

theorem rings_eq {s t : State} (same : ∀ c, t.ring c = s.ring c) : t.rings = s.rings :=
  Vector.ext fun i h => same ⟨i, h⟩

/-! ### Fault events (R12, R13, R77) -/

theorem tallyAfter_zero (t : Half) : tallyAfter t 0 = t := by
  unfold tallyAfter
  bv_omega

theorem satInc_tallyAfter (t : Half) (n : Nat) : satInc (tallyAfter t n) = tallyAfter t (n + 1) := by
  have most := t.isLt
  unfold tallyAfter satInc
  split
  · rename_i full
    have all := congrArg BitVec.toNat full
    simp only [BitVec.toNat_ofNat, BitVec.toNat_allOnes] at all
    congr 1
    omega
  · rename_i room
    have short : min 65535 (t.toNat + n) ≠ 65535 := fun h => room (by rw [h]; rfl)
    apply BitVec.eq_of_toNat_eq
    simp only [BitVec.toNat_add, BitVec.toNat_ofNat, show (1 : Half).toNat = 1 from rfl]
    omega

theorem satInc_eq (t : Half) : satInc t = tallyAfter t 1 := by
  rw [← Nat.zero_add 1, ← satInc_tallyAfter, tallyAfter_zero]

theorem tallyAfter_tallyAfter (t : Half) (m n : Nat) : tallyAfter (tallyAfter t m) n = tallyAfter t (m + n) := by
  induction n with
  | zero => rw [tallyAfter_zero, Nat.add_zero]
  | succ n ih => rw [← satInc_tallyAfter, ih, satInc_tallyAfter, Nat.add_assoc]

/-- An engine after `n` fault events. -/
def Engine.faulted (n : Nat) (e : Engine) : Engine := { e with faultTally := tallyAfter e.faultTally n }

theorem Engine.faulted_zero (e : Engine) : e.faulted 0 = e := by
  unfold Engine.faulted
  rw [tallyAfter_zero]

namespace ChannelEffect

variable {c : Chan} {s t u : State} {e : Engine} {r : Ring} {A : Port → Account}

/-- One fault event more. -/
theorem faultMore {n : Nat} (h : ChannelEffect c s t (e.faulted n) r (fun p => (Account.fault c s.now)^[n] (A p)))
    (b : Bool) :
    ChannelEffect c s (if b then faultEvent c t else t) (e.faulted (n + b.toNat)) r
      (fun p => (Account.fault c s.now)^[n + b.toNat] (A p)) := by
  cases b
  · rw [if_neg Bool.false_ne_true]
    exact h
  · rw [if_pos rfl]
    refine h.fault.congr ?_ rfl fun p => (Function.iterate_succ_apply' _ _ _).symm
    unfold Engine.faulted
    dsimp only
    rw [satInc_tallyAfter]
    rfl

theorem glitchFaults (h : ChannelEffect c s t e r A) (a b z : Bool) :
    ChannelEffect c s (glitchFaults c a b z t) (e.faulted (a.toNat + b.toNat + z.toNat)) r
      (fun p => (Account.fault c s.now)^[a.toNat + b.toNat + z.toNat] (A p)) := by
  have none : ChannelEffect c s t (e.faulted 0) r (fun p => (Account.fault c s.now)^[0] (A p)) :=
    h.congr e.faulted_zero.symm rfl fun _ => rfl
  have all := ((none.faultMore a).faultMore b).faultMore z
  rwa [Nat.zero_add] at all

end ChannelEffect

/-! ### QUAD (R26 to R34) -/

/-- The edges of A and B of a report are decoded in QUAD. -/
def decodeEdges (c : Chan) (r : Report) (s : State) : State :=
  if r.edgeA && r.edgeB then phaseError c s else if r.edgeA || r.edgeB then legalTransition c s else s

/-- The glitches of a QUAD report, then its decoding. -/
def quadDecoded (c : Chan) (r : Report) (s : State) : State :=
  decodeEdges c r (glitchFaults c r.glitchA r.glitchB (r.glitchZ && (s.chanSettings c).indexQuadrant.isSome) s)

theorem reportQuad_eq (c : Chan) (r : Report) (s : State) :
    reportQuad c r s =
      if r.edgeA || r.edgeB || r.edgeZ then evalIndex c (quadDecoded c r s) else quadDecoded c r s := rfl

/-- The engine of a QUAD channel after the decoding of a report, by the AB levels before and after (R26, R27). -/
def Engine.decoded (r : ChanSettings) (l l' : ChanLines) (e : Engine) : Engine :=
  { e with
    modeState := .quad (filteredAB l')
    position := e.position + BitVec.ofInt 32 (signedStep r (filteredAB l) (filteredAB l'))
    referenced := e.referenced && !phaseErrorIn l l'
    faultTally := tallyAfter e.faultTally (if phaseErrorIn l l' then 1 else 0) }

/-- The accounts after the decoding of a report without its glitches (R26 to R28, R39). -/
def Account.stepped (c : Chan) (time : Tick) (r : ChanSettings) (e : Engine) (l l' : ChanLines) (a : Account) :
    Account :=
  if phaseErrorIn l l' then
    if e.referenced then Account.news c time .referenceLost e.position 1 (Account.fault c time a)
    else Account.fault c time a
  else if signedStep r (filteredAB l) (filteredAB l') = 0 then a
  else Account.position c time (e.position + BitVec.ofInt 32 (signedStep r (filteredAB l) (filteredAB l')))
    (Account.primary c time a)

/-- The step of a transition is that of the table (R23 to R25), for all AB states between which not both lines
change. -/
theorem quadStep_eq (r : ChanSettings) (old new : AB) (legal : old.a = new.a ∨ old.b = new.b) :
    (quadStep r.resolution r.invert old new = none ∧ signedStep r old new = 0) ∨
    (quadStep r.resolution r.invert old new = some (BitVec.ofInt 32 (signedStep r old new)) ∧
      signedStep r old new ≠ 0) := by
  unfold signedStep
  generalize r.resolution = res
  generalize r.invert = inv
  obtain ⟨a, b⟩ := old
  obtain ⟨a', b'⟩ := new
  cases res <;> cases inv <;> cases a <;> cases b <;> cases a' <;> cases b' <;> revert legal <;> decide

theorem phaseErrorIn_iff (l l' : ChanLines) : phaseErrorIn l l' = true ↔ Edged l.a l'.a ∧ Edged l.b l'.b :=
  decide_eq_true_iff

/-- Between AB states of which both lines differ no step is counted (R23, R27). -/
theorem signedStep_of_both (r : ChanSettings) {old new : AB} (a : old.a ≠ new.a) (b : old.b ≠ new.b) :
    signedStep r old new = 0 := by
  have stays : stepTable r.resolution old new = 0 := by
    obtain ⟨_ | _, _ | _⟩ := old <;> obtain ⟨_ | _, _ | _⟩ := new <;> first | rfl | exact absurd rfl a | exact absurd rfl b
  unfold signedStep
  rw [stays]
  split <;> rfl

/-- Without an edge of A or B there is no step and no phase error. -/
theorem unstepped (r : ChanSettings) {l l' : ChanLines} (same : filteredAB l' = filteredAB l) :
    signedStep r (filteredAB l) (filteredAB l') = 0 ∧ phaseErrorIn l l' = false := by
  obtain ⟨a, b⟩ := AB.mk.inj same
  refine ⟨?_, decide_eq_false fun h => h.1 a⟩
  rw [same]
  unfold signedStep
  have stays : stepTable r.resolution (filteredAB l) (filteredAB l) = 0 := by
    rcases filteredAB l with ⟨_ | _, _ | _⟩ <;> rfl
  rw [stays]
  split <;> rfl

namespace ChannelEffect

variable {c : Chan} {s t u : State} {e : Engine} {r : Ring} {A : Port → Account}

theorem phaseError (h : ChannelEffect c s t e r A) :
    ChannelEffect c s (phaseError c t)
      { e with modeState := .quad (filteredAB (s.chanLines c)), referenced := false
               faultTally := satInc e.faultTally } r
      (fun p => if e.referenced then
        Account.news c s.now .referenceLost e.position 1 (Account.fault c s.now (A p))
        else Account.fault c s.now (A p)) :=
  (h.fault.decoder.clearReferenced 1).congr rfl rfl fun _ => rfl

/-- A legal transition is a counted step or none, by the table (R23, R24, R26). -/
theorem legalTransition (h : ChannelEffect c s t e r A) {old : AB} (follows : e.modeState = .quad old)
    (legal : old.a = (filteredAB (s.chanLines c)).a ∨ old.b = (filteredAB (s.chanLines c)).b) :
    ChannelEffect c s (legalTransition c t)
      { e with
        modeState := .quad (filteredAB (s.chanLines c))
        position := e.position + BitVec.ofInt 32 (signedStep (s.chanSettings c) old (filteredAB (s.chanLines c))) }
      r (fun p => if signedStep (s.chanSettings c) old (filteredAB (s.chanLines c)) = 0 then A p
        else Account.position c s.now
          (e.position + BitVec.ofInt 32 (signedStep (s.chanSettings c) old (filteredAB (s.chanLines c))))
          (Account.primary c s.now (A p))) := by
  unfold Machine.legalTransition
  dsimp only
  rw [h.engine, follows, h.chanSettings_eq, h.chanLines_eq]
  dsimp only
  rcases quadStep_eq (s.chanSettings c) old (filteredAB (s.chanLines c)) legal with ⟨none, zero⟩ | ⟨some, counted⟩
  · rw [none, zero]
    exact h.decoder.congr (by simp) rfl fun _ => (if_pos rfl).symm
  · rw [some]
    exact (h.decoder.countStep _).congr rfl rfl fun _ => (if_neg counted).symm

theorem decodeEdges {l : ChanLines} {rep : Report} (h : ChannelEffect c s t e r A)
    (edgeA : rep.edgeA = true ↔ Edged l.a (s.chanLines c).a) (edgeB : rep.edgeB = true ↔ Edged l.b (s.chanLines c).b)
    (follows : e.modeState = .quad (filteredAB l)) :
    ChannelEffect c s (decodeEdges c rep t) (e.decoded (s.chanSettings c) l (s.chanLines c)) r
      (fun p => Account.stepped c s.now (s.chanSettings c) e l (s.chanLines c) (A p)) := by
  unfold Machine.decodeEdges Engine.decoded Account.stepped
  by_cases both : (rep.edgeA && rep.edgeB) = true
  · have error : phaseErrorIn l (s.chanLines c) = true := by
      rw [Bool.and_eq_true, edgeA, edgeB] at both
      exact (phaseErrorIn_iff _ _).mpr both
    have stays : signedStep (s.chanSettings c) (filteredAB l) (filteredAB (s.chanLines c)) = 0 := by
      exact signedStep_of_both _ (fun a => ((phaseErrorIn_iff _ _).mp error).1 a.symm)
        (fun b => ((phaseErrorIn_iff _ _).mp error).2 b.symm)
    rw [if_pos both, error, stays]
    refine h.phaseError.congr ?_ rfl fun _ => rfl
    rw [satInc_eq]
    simp
  · have legal : phaseErrorIn l (s.chanLines c) = false := by
      rw [Bool.and_eq_true, edgeA, edgeB] at both
      exact decide_eq_false both
    rw [if_neg both, legal]
    simp only [Bool.false_eq_true, if_false, Bool.not_false, Bool.and_true, tallyAfter_zero]
    by_cases one : (rep.edgeA || rep.edgeB) = true
    · rw [if_pos one]
      refine h.legalTransition follows ?_
      rw [Bool.and_eq_true, edgeA, edgeB] at both
      by_contra neither
      rw [not_or] at neither
      exact both ⟨fun a => neither.1 a.symm, fun b => neither.2 b.symm⟩
    · rw [if_neg one]
      rw [Bool.or_eq_true, edgeA, edgeB, not_or, not_not, not_not] at one
      have same : filteredAB (s.chanLines c) = filteredAB l := by rw [filteredAB, one.1, one.2]; rfl
      rw [(unstepped (s.chanSettings c) same).1]
      refine h.congr ?_ rfl fun _ => (if_pos rfl).symm
      rw [same, ← follows]
      simp

end ChannelEffect

/-- The engine after a qualified index that it stood before: the homing load if homing is armed (R32, R34). -/
def Engine.homed (home : Word) (e : Engine) : Engine :=
  if e.homingArmed then { e with position := home, referenced := true, homingArmed := false } else e

/-- The accounts after a qualified index before its capture event: the push, then the homing load's notice and
position change if homing is armed (R31, R34). -/
def Account.indexed (c : Chan) (time : Tick) (home : Word) (e : Engine) (r : Ring) (a : Account) : Account :=
  if e.homingArmed then
    Account.position c time home (Account.news c time .homed e.position home (Account.push c time r a))
  else Account.push c time r a

/-- A qualified index before its capture event. -/
def indexTaken (c : Chan) (s : State) : State :=
  let pushed := pushEntry c .index (s.engine c).position false (s.engine c).homingArmed s
  if (s.engine c).homingArmed then homingLoad c pushed else pushed

theorem qualifiedIndex_eq (c : Chan) (s : State) :
    qualifiedIndex c s = captureEvent (.index c (s.engine c)) (indexTaken c s) := rfl

theorem indexCondition_iff (r : ChanSettings) (l : ChanLines) :
    indexCondition r l = true ↔ l.z.filtered = r.indexPolarity ∧ r.indexQuadrant = some (filteredAB l) := by
  unfold indexCondition
  split
  · rename_i q quadrant
    rw [decide_eq_true_iff, quadrant, Option.some.injEq]
    exact and_congr_right fun _ => eq_comm
  · rename_i none
    simp [none]

theorem usedGlitches_quad {r : ChanSettings} (quad : r.mode = .quad) (v : Levels) (l : ChanLines) :
    usedGlitches r v l = (rejects (filterLength r.filterStep) v.a l.a).toNat +
      (rejects (filterLength r.filterStep) v.b l.b).toNat +
      (rejects (filterLength r.filterStep) v.z l.z && r.indexQuadrant.isSome).toNat := by
  unfold usedGlitches
  cases r.indexQuadrant <;> simp [quad, Bool.toNat, cond_eq_ite]

namespace ChannelEffect

variable {c : Chan} {s t u : State} {e : Engine} {r : Ring} {A : Port → Account}

theorem indexTaken (h : ChannelEffect c s t e r A) :
    ChannelEffect c s (indexTaken c t) (e.homed (s.chanSettings c).homeValue)
      (r.afterPush .index e.position s.now false e.homingArmed)
      (fun p => Account.indexed c s.now (s.chanSettings c).homeValue e r (A p)) := by
  have pushed := h.push .index e.position false e.homingArmed
  unfold Machine.indexTaken Engine.homed Account.indexed
  dsimp only
  rw [h.engine]
  split
  · exact pushed.homingLoad
  · exact pushed

/-- An index evaluation that finds no qualified index (R29). -/
theorem evalIndex_unqualified (h : ChannelEffect c s t e r A)
    (unqualified : ¬ (indexCondition (s.chanSettings c) (s.chanLines c) = true ∧ e.indexCond = false)) :
    ChannelEffect c s (evalIndex c t)
      { e with indexCond := indexCondition (s.chanSettings c) (s.chanLines c) } r A := by
  unfold Machine.evalIndex
  dsimp only
  rw [h.engine, h.chanSettings_eq, h.chanLines_eq, if_neg]
  · exact h.setEngine _
  · rwa [Bool.and_eq_true, Bool.not_eq_true']

/-- An index evaluation that finds a qualified index: its capture event comes last (R29, R31). -/
theorem evalIndex_qualified (h : ChannelEffect c s t e r A)
    (cond : indexCondition (s.chanSettings c) (s.chanLines c) = true) (was : e.indexCond = false) :
    ∃ u, evalIndex c t = captureEvent (.index c { e with indexCond := true }) u ∧
      ChannelEffect c s u (Engine.homed (s.chanSettings c).homeValue { e with indexCond := true })
        (r.afterPush .index e.position s.now false e.homingArmed)
        (fun p => Account.indexed c s.now (s.chanSettings c).homeValue e r (A p)) := by
  have set := h.setEngine { e with indexCond := true }
  refine ⟨Machine.indexTaken c (t.setEngine c { e with indexCond := true }), ?_, set.indexTaken⟩
  unfold Machine.evalIndex
  dsimp only
  rw [h.engine, h.chanSettings_eq, h.chanLines_eq, cond, was]
  rw [if_pos (by rfl), qualifiedIndex_eq, set.engine]

/-- The glitches and the AB decoding of a QUAD report (R26 to R28). -/
theorem quadDecoded {l : ChanLines} {rep : Report} (edgeA : rep.edgeA = true ↔ Edged l.a (s.chanLines c).a)
    (edgeB : rep.edgeB = true ↔ Edged l.b (s.chanLines c).b)
    (follows : (s.engine c).modeState = .quad (filteredAB l)) {n : Nat}
    (glitches : n = rep.glitchA.toNat + rep.glitchB.toNat +
      (rep.glitchZ && (s.chanSettings c).indexQuadrant.isSome).toNat) :
    ChannelEffect c s (quadDecoded c rep s) (((s.engine c).faulted n).decoded (s.chanSettings c) l (s.chanLines c))
      (s.ring c) (fun p => Account.stepped c s.now (s.chanSettings c) (s.engine c) l (s.chanLines c)
        ((Account.fault c s.now)^[n] (s.account p c))) := by
  subst glitches
  exact ((refl c s).glitchFaults _ _ _).decodeEdges edgeA edgeB follows

/-! ### TALLY (R44 to R47) -/

/-- A report in TALLY: the glitches, the gate, then a selected edge of A counted while the gate is open. -/
theorem reportTally {rep : Report} {gate : ModeState} {n : Nat}
    (glitches : n = rep.glitchA.toNat + (rep.glitchB && (s.chanSettings c).gate != .none).toNat)
    (gated : gate = if rep.edgeB then gateState (s.chanSettings c).gate (s.chanLines c).b.filtered
      else (s.engine c).modeState) :
    (rep.edgeA = true ∧ tallySelects (s.chanSettings c).tallyEdge (s.chanLines c).a.filtered = true ∧
        gate = .gateOpen →
      ChannelEffect c s (reportTally c rep s)
        { (s.engine c).faulted n with modeState := gate, runningCount := (s.engine c).runningCount + 1 } (s.ring c)
        (fun p => Account.primary c s.now ((Account.fault c s.now)^[n] (s.account p c)))) ∧
    (¬ (rep.edgeA = true ∧ tallySelects (s.chanSettings c).tallyEdge (s.chanLines c).a.filtered = true ∧
        gate = .gateOpen) →
      ChannelEffect c s (reportTally c rep s) { (s.engine c).faulted n with modeState := gate } (s.ring c)
        (fun p => (Account.fault c s.now)^[n] (s.account p c))) := by
  have faulted := (refl c s).glitchFaults rep.glitchA (rep.glitchB && (s.chanSettings c).gate != .none) false
  rw [show (false).toNat = 0 from rfl, Nat.add_zero, ← glitches] at faulted
  have gatedEffect : ChannelEffect c s
      (if rep.edgeB then
        (Machine.glitchFaults c rep.glitchA (rep.glitchB && (s.chanSettings c).gate != .none) false s).setEngine c
          { (Machine.glitchFaults c rep.glitchA (rep.glitchB && (s.chanSettings c).gate != .none) false s).engine c
            with modeState := gateState (s.chanSettings c).gate (s.chanLines c).b.filtered }
      else Machine.glitchFaults c rep.glitchA (rep.glitchB && (s.chanSettings c).gate != .none) false s)
      { (s.engine c).faulted n with modeState := gate } (s.ring c)
      (fun p => (Account.fault c s.now)^[n] (s.account p c)) := by
    subst gated
    split
    · exact (faulted.setEngine _).congr (by rw [faulted.engine]) rfl fun _ => rfl
    · exact faulted
  unfold Machine.reportTally
  dsimp only
  rw [gatedEffect.engine]
  simp only [Bool.and_eq_true, beq_iff_eq, and_assoc]
  constructor
  · intro counted
    rw [if_pos counted]
    unfold countEdge
    dsimp only
    rw [gatedEffect.engine]
    exact (gatedEffect.setEngine _).primary
  · intro uncounted
    rw [if_neg uncounted]
    exact gatedEffect

end ChannelEffect

/-! ### SPAN and WIDTH (R48 to R56) -/

/-- A ring after the end of a measurement, if one ended: its kind and the tick it began at (R48). -/
def Ring.measured (now : Tick) (ended : Option (EntryKind × Tick)) (r : Ring) : Ring :=
  match ended with
  | some (kind, start) => r.afterPush kind ((now - start).setWidth 32) now false false
  | none => r

/-- An account after the end of a measurement, if one ended (R48). -/
def Account.measured (c : Chan) (now : Tick) (r : Ring) (ended : Option (EntryKind × Tick)) (a : Account) : Account :=
  match ended with
  | some _ => Account.primary c now (Account.push c now r a)
  | none => a

/-- The mode state after a span edge, and the period that it ends (R49). -/
def spanNext (now : Tick) (m : ModeState) : ModeState × Option (EntryKind × Tick) :=
  (.timing now, match m with | .timing start => some (.period, start) | _ => none)

theorem spanNext_timing (now start : Tick) : spanNext now (.timing start) = (.timing now, some (.period, start)) := rfl

theorem spanNext_untimed {m : ModeState} (untimed : ∀ start, m ≠ .timing start) (now : Tick) :
    spanNext now m = (.timing now, none) := by
  unfold spanNext
  split
  · exact absurd rfl (untimed _)
  · rfl

/-- The mode state of WIDTH after an edge of A, and the pulse that it ends (R53). -/
def widthNext (active : Bool) (now : Tick) (m : ModeState) : ModeState × Option (EntryKind × Tick) :=
  match m, active with
  | .waitInactive, false => (.waitActive, none)
  | .waitActive, true => (.inPulse now, none)
  | .inPulse start, false => (.waitActive, some (.width, start))
  | m, _ => (m, none)

namespace ChannelEffect

variable {c : Chan} {s t u : State} {e : Engine} {r : Ring} {A : Port → Account}

theorem endMeasurement (h : ChannelEffect c s t e r A) (kind : EntryKind) (value : Word) (overrange : Bool) :
    ChannelEffect c s (endMeasurement c kind value overrange t) e (r.afterPush kind value s.now overrange false)
      (fun p => Account.primary c s.now (Account.push c s.now r (A p))) :=
  (h.push kind value overrange false).primary

theorem spanEdge (h : ChannelEffect c s t e r A) :
    ChannelEffect c s (spanEdge c t) { e with modeState := (spanNext s.now e.modeState).1 }
      (r.measured s.now (spanNext s.now e.modeState).2)
      (fun p => Account.measured c s.now r (spanNext s.now e.modeState).2 (A p)) := by
  unfold Machine.spanEdge State.elapsed
  rw [h.engine, h.now_eq]
  split
  · rename_i start timing
    rw [timing, spanNext_timing]
    exact (h.endMeasurement .period ((s.now - start).setWidth 32) false).modeState _
  · rename_i other
    rw [spanNext_untimed other]
    exact h.modeState _

theorem widthEdge (h : ChannelEffect c s t e r A) {active : Bool}
    (level : active = decide ((s.chanLines c).a.filtered = (s.chanSettings c).widthLevel)) :
    ChannelEffect c s (widthEdge c t) { e with modeState := (widthNext active s.now e.modeState).1 }
      (r.measured s.now (widthNext active s.now e.modeState).2)
      (fun p => Account.measured c s.now r (widthNext active s.now e.modeState).2 (A p)) := by
  unfold Machine.widthEdge State.elapsed
  dsimp only
  rw [h.engine, h.now_eq, h.chanSettings_eq, h.chanLines_eq, ← level]
  have unmoved (same : widthNext active s.now e.modeState = (e.modeState, none)) :
      ChannelEffect c s t { e with modeState := (widthNext active s.now e.modeState).1 }
        (r.measured s.now (widthNext active s.now e.modeState).2)
        (fun p => Account.measured c s.now r (widthNext active s.now e.modeState).2 (A p)) := by
    rw [same]
    exact h
  split
  · rename_i was
    cases active
    · rw [was]
      exact h.modeState _
    · exact unmoved (by rw [was]; rfl)
  · rename_i was
    cases active
    · exact unmoved (by rw [was]; rfl)
    · rw [was]
      exact h.modeState _
  · rename_i start was
    cases active
    · rw [was]
      exact (h.endMeasurement .width ((s.now - start).setWidth 32) false).modeState _
    · exact unmoved (by rw [was]; rfl)
  · rename_i inactive waiting pulse
    refine unmoved ?_
    unfold widthNext
    split
    · exact absurd ‹_› inactive
    · exact absurd ‹_› waiting
    · exact absurd ‹_› (pulse _)
    · rfl

end ChannelEffect

/-- The mode state of SPAN after a report, and the period that it ends (R49). -/
def spanReported (r : ChanSettings) (l : ChanLines) (now : Tick) (edge : Bool) (m : ModeState) :
    ModeState × Option (EntryKind × Tick) :=
  if edge && spanSelects r.spanEdge l.a.filtered then spanNext now m else (m, none)

/-- The mode state of WIDTH after a report, and the pulse that it ends (R53). -/
def widthReported (r : ChanSettings) (l : ChanLines) (now : Tick) (edge : Bool) (m : ModeState) :
    ModeState × Option (EntryKind × Tick) :=
  if edge then widthNext (decide (l.a.filtered = r.widthLevel)) now m else (m, none)

namespace ChannelEffect

variable {c : Chan} {s : State}

theorem faultedAlone (rep : Report) :
    ChannelEffect c s (Machine.glitchFaults c rep.glitchA false false s) ((s.engine c).faulted rep.glitchA.toNat)
      (s.ring c) (fun p => (Account.fault c s.now)^[rep.glitchA.toNat] (s.account p c)) :=
  (refl c s).glitchFaults rep.glitchA false false

theorem reportSpan (rep : Report) :
    ChannelEffect c s (reportSpan c rep s)
      { (s.engine c).faulted rep.glitchA.toNat with
        modeState := (spanReported (s.chanSettings c) (s.chanLines c) s.now rep.edgeA (s.engine c).modeState).1 }
      ((s.ring c).measured s.now
        (spanReported (s.chanSettings c) (s.chanLines c) s.now rep.edgeA (s.engine c).modeState).2)
      (fun p => Account.measured c s.now (s.ring c)
        (spanReported (s.chanSettings c) (s.chanLines c) s.now rep.edgeA (s.engine c).modeState).2
        ((Account.fault c s.now)^[rep.glitchA.toNat] (s.account p c))) := by
  have faulted := faultedAlone (c := c) (s := s) rep
  unfold Machine.reportSpan spanReported
  dsimp only
  rw [faulted.chanSettings_eq, faulted.chanLines_eq]
  split
  · exact faulted.spanEdge
  · exact faulted

theorem reportWidth (rep : Report) :
    ChannelEffect c s (reportWidth c rep s)
      { (s.engine c).faulted rep.glitchA.toNat with
        modeState := (widthReported (s.chanSettings c) (s.chanLines c) s.now rep.edgeA (s.engine c).modeState).1 }
      ((s.ring c).measured s.now
        (widthReported (s.chanSettings c) (s.chanLines c) s.now rep.edgeA (s.engine c).modeState).2)
      (fun p => Account.measured c s.now (s.ring c)
        (widthReported (s.chanSettings c) (s.chanLines c) s.now rep.edgeA (s.engine c).modeState).2
        ((Account.fault c s.now)^[rep.glitchA.toNat] (s.account p c))) := by
  have faulted := faultedAlone (c := c) (s := s) rep
  unfold Machine.reportWidth widthReported
  dsimp only
  split
  · exact faulted.widthEdge rfl
  · exact faulted

end ChannelEffect

/-! ### Samples of a channel (R6, R11) -/

/-- The lines of a channel after its sample. -/
def State.sampledLines (s : State) (c : Chan) (v : Levels) : ChanLines :=
  (sampleChanLines (filterLength (s.chanSettings c).filterStep) v (s.chanLines c)).1

/-- The report of a channel's sample. -/
def State.reportOf (s : State) (c : Chan) (v : Levels) : Report :=
  (sampleChanLines (filterLength (s.chanSettings c).filterStep) v (s.chanLines c)).2

theorem reportOf_edgeA (s : State) (c : Chan) (v : Levels) :
    (s.reportOf c v).edgeA = true ↔ Edged (s.chanLines c).a (s.sampledLines c v).a := sampleLine_edge _ _ _

theorem reportOf_edgeB (s : State) (c : Chan) (v : Levels) :
    (s.reportOf c v).edgeB = true ↔ Edged (s.chanLines c).b (s.sampledLines c v).b := sampleLine_edge _ _ _

theorem reportOf_edgeZ (s : State) (c : Chan) (v : Levels) :
    (s.reportOf c v).edgeZ = true ↔ Edged (s.chanLines c).z (s.sampledLines c v).z := sampleLine_edge _ _ _

theorem reportOf_glitchA (s : State) (c : Chan) (v : Levels) :
    (s.reportOf c v).glitchA = rejects (filterLength (s.chanSettings c).filterStep) v.a (s.chanLines c).a :=
  sampleLine_glitch _ _ _

theorem reportOf_glitchB (s : State) (c : Chan) (v : Levels) :
    (s.reportOf c v).glitchB = rejects (filterLength (s.chanSettings c).filterStep) v.b (s.chanLines c).b :=
  sampleLine_glitch _ _ _

theorem reportOf_glitchZ (s : State) (c : Chan) (v : Levels) :
    (s.reportOf c v).glitchZ = rejects (filterLength (s.chanSettings c).filterStep) v.z (s.chanLines c).z :=
  sampleLine_glitch _ _ _

theorem edgeDue_chan (s : State) (c : Chan) (v : Levels) :
    s.edgeDue (.chan c v) = ((s.reportOf c v).edgeA || (s.reportOf c v).edgeB || (s.reportOf c v).edgeZ) := rfl

/-- A report without edges and glitches changes nothing (R11). -/
theorem takeReport_of_no_event {rep : Report} (quiet : rep.isEvent = false) (c : Chan) (s : State) :
    takeReport c rep s = s := by
  obtain ⟨a, b, z, a', b', z'⟩ := rep
  simp only [Report.isEvent, Bool.or_eq_false_iff] at quiet
  obtain ⟨⟨⟨⟨⟨rfl, rfl⟩, rfl⟩, rfl⟩, rfl⟩, rfl⟩ := quiet
  unfold takeReport
  split <;> simp [reportQuad, reportTally, reportSpan, reportWidth, glitchFaults]

theorem takeSample_chan (c : Chan) (v : Levels) (s : State) :
    takeSample (.chan c v) s = takeReport c (s.reportOf c v) (s.setChanLines c (s.sampledLines c v)) := by
  show (if (s.reportOf c v).isEvent then takeReport c (s.reportOf c v) _ else _) = _
  split
  · rfl
  · rename_i quiet
    exact (takeReport_of_no_event (Bool.eq_false_of_not_eq_true quiet) c _).symm

/-! ### The other channels -/

/-- The engines, rings and views of the other channels stay. -/
def Elsewhere (c : Chan) (s t : State) : Prop :=
  ∀ d, d ≠ c → t.engine d = s.engine d ∧ t.ring d = s.ring d ∧ ∀ p, t.view p d = s.view p d

theorem Elsewhere.trans {c : Chan} {s t u : State} (h : Elsewhere c s t) (k : Elsewhere c t u) : Elsewhere c s u := by
  intro d apart
  obtain ⟨engine, ring, view⟩ := h d apart
  obtain ⟨engine', ring', view'⟩ := k d apart
  exact ⟨engine'.trans engine, ring'.trans ring, fun p => (view' p).trans (view p)⟩

theorem ChannelEffect.elsewhere {c : Chan} {s t : State} {e : Engine} {r : Ring} {A : Port → Account}
    (h : ChannelEffect c s t e r A) : Elsewhere c s t := h.others

theorem legalTransition_elsewhere (c : Chan) (s : State) : Elsewhere c s (legalTransition c s) := by
  have decoder := (ChannelEffect.refl c s).decoder
  unfold legalTransition
  dsimp only
  split
  · split
    · exact (decoder.countStep _).elsewhere
    · exact decoder.elsewhere
  · exact decoder.elsewhere

theorem decodeEdges_elsewhere (c : Chan) (r : Report) (s : State) : Elsewhere c s (decodeEdges c r s) := by
  unfold decodeEdges
  split
  · exact (ChannelEffect.refl c s).phaseError.elsewhere
  · split
    · exact legalTransition_elsewhere c s
    · exact (ChannelEffect.refl c s).elsewhere

theorem captureEvent_elsewhere (cause : CaptureCause) (c : Chan) (s : State) :
    Elsewhere c s (captureEvent cause s) := by
  have only := captureEvent_only cause s
  exact fun d _ => ⟨only.engine_eq (by decide) d, only.ring_eq (by decide) d, fun p => only.view_eq (by decide) p d⟩

theorem evalIndex_elsewhere (c : Chan) (s : State) : Elsewhere c s (evalIndex c s) := by
  have set := (ChannelEffect.refl c s).setEngine
    { s.engine c with indexCond := indexCondition (s.chanSettings c) (s.chanLines c) }
  unfold evalIndex
  dsimp only
  split
  · exact set.indexTaken.elsewhere.trans (captureEvent_elsewhere _ c _)
  · exact set.elsewhere

theorem quadDecoded_elsewhere (c : Chan) (r : Report) (s : State) : Elsewhere c s (quadDecoded c r s) :=
  ((ChannelEffect.refl c s).glitchFaults _ _ _).elsewhere.trans (decodeEdges_elsewhere c r _)

theorem takeReport_elsewhere (c : Chan) (r : Report) (s : State) : Elsewhere c s (takeReport c r s) := by
  unfold takeReport
  split
  · exact (ChannelEffect.refl c s).elsewhere
  · rw [reportQuad_eq]
    split
    · exact (quadDecoded_elsewhere c r s).trans (evalIndex_elsewhere c _)
    · exact quadDecoded_elsewhere c r s
  · obtain ⟨counted, uncounted⟩ := ChannelEffect.reportTally (s := s) (c := c) (rep := r) rfl rfl
    by_cases test : r.edgeA = true ∧ tallySelects (s.chanSettings c).tallyEdge (s.chanLines c).a.filtered = true ∧
        (if r.edgeB then gateState (s.chanSettings c).gate (s.chanLines c).b.filtered
          else (s.engine c).modeState) = .gateOpen
    · exact (counted test).elsewhere
    · exact (uncounted test).elsewhere
  · exact (ChannelEffect.reportSpan r).elsewhere
  · exact (ChannelEffect.reportWidth r).elsewhere

theorem takeSample_elsewhere (c : Chan) (v : Levels) (s : State) : Elsewhere c s (takeSample (.chan c v) s) := by
  rw [takeSample_chan]
  exact takeReport_elsewhere c _ _

theorem overrangeEnd_elsewhere (c : Chan) (s : State) : Elsewhere c s (overrangeEnd c s) := by
  unfold overrangeEnd
  split
  · exact (((ChannelEffect.refl c s).endMeasurement _ _ _).modeState _).elsewhere
  · exact (((ChannelEffect.refl c s).endMeasurement _ _ _).modeState _).elsewhere
  · exact (ChannelEffect.refl c s).elsewhere

end Sys2Proof.Machine
end

section
/-! PROOFS. What every step keeps of the channel engines and of the kinds of ring entries. -/

namespace Sys2Proof.Machine

open Sys2Proof

/-! ### The law of one channel -/

/-- The engine of a channel fits its record and its lines (R19, R29, R33, R41). -/
structure EngineFits (r : ChanSettings) (l : ChanLines) (e : Engine) : Prop where
  modeState : modeStateFits r l e.modeState
  quadAlone : r.mode ≠ .quad → e.position = 0 ∧ e.referenced = false ∧ e.homingArmed = false
  tallyAlone : r.mode ≠ .tally → e.runningCount = 0
  indexCond : r.mode = .quad → e.indexCond = indexCondition r l
  armed : e.homingArmed = true → r.indexQuadrant ≠ none

/-- A ring entry is of the kind that a mode pushes (R60, R61). -/
def RingEntry.Fits (m : Mode) (e : RingEntry) : Prop :=
  kindOfMode m = some e.kind ∧ (e.kind = .index → e.overrange = false) ∧ (e.kind ≠ .index → e.homing = false)

/-- The ring of a channel holds entries of the kind of its mode. -/
def Ring.Fits (m : Mode) (r : Ring) : Prop := ∀ e ∈ r.entries, e.Fits m

/-- The law of one channel. -/
structure ChannelFits (r : ChanSettings) (l : ChanLines) (e : Engine) (ring : Ring) : Prop where
  engine : EngineFits r l e
  ring : ring.Fits r.mode

/-- Both invariants, channel by channel; in a reset every channel is OFF. -/
def State.channelsFit (s : State) : Prop :=
  ∀ c, ChannelFits (s.chanSettings c) (s.chanLines c) (s.engine c) (s.ring c) ∧
    (¬ s.running → (s.chanSettings c).mode = .off)

theorem channelsFit_iff (s : State) : s.channelsFit ↔ EngineInv s ∧ RingKindInv s := by
  constructor
  · intro h
    refine ⟨fun c => ?_, fun c => (h c).1.ring⟩
    obtain ⟨⟨engine, -⟩, off⟩ := h c
    exact ⟨engine.modeState, engine.quadAlone, engine.tallyAlone, engine.indexCond, engine.armed, off⟩
  · intro ⟨engines, rings⟩ c
    obtain ⟨modeState, quadAlone, tallyAlone, indexCond, armed, off⟩ := engines c
    exact ⟨⟨⟨modeState, quadAlone, tallyAlone, indexCond, armed⟩, rings c⟩, off⟩

/-! ### What fits -/

theorem Ring.fits_nil (m : Mode) (next : Word) : (Ring.mk [] next).Fits m := fun _ h => nomatch h

theorem Ring.fits_afterPush {m : Mode} {r : Ring} (fits : r.Fits m) {kind : EntryKind} {value : Word} {time : Tick}
    {overrange homing : Bool} (ofMode : kindOfMode m = some kind) (index : kind = .index → overrange = false)
    (other : kind ≠ .index → homing = false) : (r.afterPush kind value time overrange homing).Fits m := by
  intro e held
  unfold Ring.afterPush at held
  rcases List.mem_append.mp held with old | new
  · split at old
    · exact fits e (List.mem_of_mem_drop old)
    · exact fits e old
  · cases List.mem_singleton.mp new
    exact ⟨ofMode, index, other⟩

theorem engineFits_of_off {r : ChanSettings} (off : r.mode = .off) {l l' : ChanLines} {e : Engine}
    (fits : EngineFits r l e) : EngineFits r l' e :=
  { fits with
    modeState := by
      have none := fits.modeState
      unfold modeStateFits at none ⊢
      rw [off] at none ⊢
      exact none
    indexCond := fun quad => absurd (off.symm.trans quad) (by decide) }

/-- The law reads the filtered levels alone. -/
theorem engineFits_of_levels {r : ChanSettings} {l l' : ChanLines} {e : Engine}
    (a : l'.a.filtered = l.a.filtered) (b : l'.b.filtered = l.b.filtered) (z : l'.z.filtered = l.z.filtered)
    (fits : EngineFits r l e) : EngineFits r l' e := by
  have ab : filteredAB l' = filteredAB l := by unfold filteredAB; rw [a, b]
  refine { fits with modeState := ?_, indexCond := fun quad => ?_ }
  · have was := fits.modeState
    unfold modeStateFits at was ⊢
    rwa [ab, a, b]
  · rw [fits.indexCond quad]
    unfold indexCondition
    rw [ab, z]

theorem engineFits_enterMode (r : ChanSettings) (l : ChanLines) (e : Engine) : EngineFits r l (enterMode r l e) where
  modeState := by
    unfold modeStateFits enterMode entryState
    cases r.mode <;> dsimp only
    · exact .inl rfl
    · split
      · exact .inl rfl
      · rfl
  quadAlone _ := ⟨rfl, rfl, rfl⟩
  tallyAlone _ := rfl
  indexCond quad := by simp [enterMode, quad]
  armed on := nomatch on

theorem engineFits_reset (l : ChanLines) : EngineFits .default l .reset where
  modeState := rfl
  quadAlone _ := ⟨rfl, rfl, rfl⟩
  tallyAlone _ := rfl
  indexCond quad := nomatch quad
  armed on := nomatch on

/-! ### Reports (R26 to R56) -/

section
variable {c : Chan} {v : Levels} {s : State}

/-- Without an edge of A, of B or of Z the filtered level of the line stays. -/
theorem sampledLines_a (still : ¬ (s.reportOf c v).edgeA = true) :
    (s.sampledLines c v).a.filtered = (s.chanLines c).a.filtered := by
  rwa [reportOf_edgeA, not_not] at still

theorem sampledLines_b (still : ¬ (s.reportOf c v).edgeB = true) :
    (s.sampledLines c v).b.filtered = (s.chanLines c).b.filtered := by
  rwa [reportOf_edgeB, not_not] at still

theorem sampledLines_z (still : ¬ (s.reportOf c v).edgeZ = true) :
    (s.sampledLines c v).z.filtered = (s.chanLines c).z.filtered := by
  rwa [reportOf_edgeZ, not_not] at still

/-- The state in which a channel's engine takes its report: its lines have stepped. -/
abbrev State.atReport (s : State) (c : Chan) (v : Levels) : State := s.setChanLines c (s.sampledLines c v)

theorem atReport_chanLines (s : State) (c : Chan) (v : Levels) :
    (s.atReport c v).chanLines c = s.sampledLines c v := State.chanLines_setChanLines_self _ _ _

/-- The glitches and the decoding of a QUAD sample whose decoder follows the filtered levels. -/
theorem quadDecoded_atReport (quad : (s.chanSettings c).mode = .quad)
    (follows : (s.engine c).modeState = .quad (filteredAB (s.chanLines c))) :
    ChannelEffect c (s.atReport c v) (quadDecoded c (s.reportOf c v) (s.atReport c v))
      (((s.engine c).faulted (usedGlitches (s.chanSettings c) v (s.chanLines c))).decoded (s.chanSettings c)
        (s.chanLines c) (s.sampledLines c v)) (s.ring c)
      (fun p => Account.stepped c s.now (s.chanSettings c) (s.engine c) (s.chanLines c) (s.sampledLines c v)
        ((Account.fault c s.now)^[usedGlitches (s.chanSettings c) v (s.chanLines c)] (s.account p c))) := by
  have decoded := ChannelEffect.quadDecoded (s := s.atReport c v) (c := c) (l := s.chanLines c)
    (rep := s.reportOf c v) (n := usedGlitches (s.chanSettings c) v (s.chanLines c))
    (by rw [atReport_chanLines]; exact reportOf_edgeA s c v)
    (by rw [atReport_chanLines]; exact reportOf_edgeB s c v) follows
    (by rw [usedGlitches_quad quad, reportOf_glitchA, reportOf_glitchB, reportOf_glitchZ]; rfl)
  rwa [atReport_chanLines] at decoded

theorem decoded_fits (fits : EngineFits (s.chanSettings c) (s.chanLines c) (s.engine c))
    (quad : (s.chanSettings c).mode = .quad) (n : Nat) (cond : Bool)
    (evaluated : cond = indexCondition (s.chanSettings c) (s.sampledLines c v)) :
    EngineFits (s.chanSettings c) (s.sampledLines c v)
      { ((s.engine c).faulted n).decoded (s.chanSettings c) (s.chanLines c) (s.sampledLines c v) with
        indexCond := cond } where
  modeState := by unfold modeStateFits; rw [quad]; rfl
  quadAlone other := absurd quad other
  tallyAlone other := fits.tallyAlone other
  indexCond _ := evaluated
  armed := fits.armed

theorem homed_fits {r : ChanSettings} {l : ChanLines} {e : Engine} (fits : EngineFits r l e) (quad : r.mode = .quad)
    (home : Word) : EngineFits r l (e.homed home) := by
  unfold Engine.homed
  split
  · exact ⟨fits.modeState, fun other => absurd quad other, fits.tallyAlone, fits.indexCond, fun on => nomatch on⟩
  · exact fits

theorem reportQuad_fits (fits : ChannelFits (s.chanSettings c) (s.chanLines c) (s.engine c) (s.ring c))
    (quad : (s.chanSettings c).mode = .quad) :
    ChannelFits (s.chanSettings c) (s.sampledLines c v)
      ((reportQuad c (s.reportOf c v) (s.atReport c v)).engine c)
      ((reportQuad c (s.reportOf c v) (s.atReport c v)).ring c) := by
  obtain ⟨engine, ring⟩ := fits
  have follows : (s.engine c).modeState = .quad (filteredAB (s.chanLines c)) := by
    have was := engine.modeState
    unfold modeStateFits at was
    rwa [quad] at was
  have decoded := quadDecoded_atReport (v := v) quad follows
  rw [reportQuad_eq]
  split
  · by_cases qualified : indexCondition (s.chanSettings c) (s.sampledLines c v) = true ∧
        (((s.engine c).faulted (usedGlitches (s.chanSettings c) v (s.chanLines c))).decoded (s.chanSettings c)
          (s.chanLines c) (s.sampledLines c v)).indexCond = false
    · obtain ⟨cond, was⟩ := qualified
      obtain ⟨u, taken, effect⟩ := decoded.evalIndex_qualified (by rw [atReport_chanLines]; exact cond) was
      have only := captureEvent_only (.index c { ((s.engine c).faulted (usedGlitches (s.chanSettings c) v
        (s.chanLines c))).decoded (s.chanSettings c) (s.chanLines c) (s.sampledLines c v) with indexCond := true }) u
      rw [taken, only.engine_eq (by decide), only.ring_eq (by decide), effect.engine, effect.ring]
      exact ⟨homed_fits (decoded_fits engine quad _ _ cond.symm) quad _,
        Ring.fits_afterPush ring (by rw [quad]; rfl) (fun _ => rfl) fun other => absurd rfl other⟩
    · have effect := decoded.evalIndex_unqualified (by rwa [atReport_chanLines])
      rw [effect.engine, effect.ring, atReport_chanLines]
      exact ⟨decoded_fits engine quad _ _ rfl, ring⟩
  · rename_i still
    simp only [Bool.or_eq_true, not_or] at still
    obtain ⟨⟨a, b⟩, z⟩ := still
    have same : indexCondition (s.chanSettings c) (s.sampledLines c v) =
        indexCondition (s.chanSettings c) (s.chanLines c) := by
      unfold indexCondition filteredAB
      rw [sampledLines_a a, sampledLines_b b, sampledLines_z z]
    rw [decoded.engine, decoded.ring]
    exact ⟨decoded_fits engine quad _ _ (by rw [same]; exact engine.indexCond quad), ring⟩

theorem reportTally_fits (fits : ChannelFits (s.chanSettings c) (s.chanLines c) (s.engine c) (s.ring c))
    (tally : (s.chanSettings c).mode = .tally) :
    ChannelFits (s.chanSettings c) (s.sampledLines c v)
      ((reportTally c (s.reportOf c v) (s.atReport c v)).engine c)
      ((reportTally c (s.reportOf c v) (s.atReport c v)).ring c) := by
  obtain ⟨engine, ring⟩ := fits
  obtain ⟨counted, uncounted⟩ := ChannelEffect.reportTally (s := s.atReport c v) (c := c) (rep := s.reportOf c v)
    rfl rfl
  rw [atReport_chanLines] at counted uncounted
  have gate : modeStateFits (s.chanSettings c) (s.sampledLines c v)
      (if (s.reportOf c v).edgeB then gateState (s.chanSettings c).gate (s.sampledLines c v).b.filtered
        else (s.engine c).modeState) := by
    have was := engine.modeState
    unfold modeStateFits at was ⊢
    rw [tally] at was ⊢
    dsimp only at was ⊢
    split
    · rfl
    · rename_i still
      rw [was, sampledLines_b still]
  have quadAlone := engine.quadAlone (by rw [tally]; decide)
  have others (x : Word) : EngineFits (s.chanSettings c) (s.sampledLines c v)
      { (s.engine c).faulted ((s.reportOf c v).glitchA.toNat +
          ((s.reportOf c v).glitchB && ((s.atReport c v).chanSettings c).gate != .none).toNat) with
        modeState := if (s.reportOf c v).edgeB then
            gateState (s.chanSettings c).gate (s.sampledLines c v).b.filtered else (s.engine c).modeState
        runningCount := x } :=
    ⟨gate, fun _ => quadAlone, fun other => absurd tally other,
      fun quad => absurd (tally.symm.trans quad) (by decide), engine.armed⟩
  by_cases test : (s.reportOf c v).edgeA = true ∧
      tallySelects (s.chanSettings c).tallyEdge (s.sampledLines c v).a.filtered = true ∧
      (if (s.reportOf c v).edgeB then gateState (s.chanSettings c).gate (s.sampledLines c v).b.filtered
        else (s.engine c).modeState) = .gateOpen
  · have effect := counted test
    rw [effect.engine, effect.ring]
    exact ⟨others _, ring⟩
  · have effect := uncounted test
    rw [effect.engine, effect.ring]
    exact ⟨others _, ring⟩

/-- A span or width engine after an event of A, with the entry that it pushed. -/
theorem measured_fits {after : ModeState} {ended : Option (EntryKind × Tick)} {l' : ChanLines} {n : Nat}
    (fits : ChannelFits (s.chanSettings c) (s.chanLines c) (s.engine c) (s.ring c))
    (other : (s.chanSettings c).mode ≠ .quad) (tie : modeStateFits (s.chanSettings c) l' after)
    (kind : ∀ k start, ended = some (k, start) → kindOfMode (s.chanSettings c).mode = some k) :
    ChannelFits (s.chanSettings c) l' { (s.engine c).faulted n with modeState := after }
      ((s.ring c).measured s.now ended) where
  engine := ⟨tie, fits.engine.quadAlone, fits.engine.tallyAlone, fun quad => absurd quad other, fits.engine.armed⟩
  ring := by
    unfold Ring.measured
    split
    · rename_i k start
      have ofMode := kind k start rfl
      refine Ring.fits_afterPush fits.ring ofMode (fun _ => rfl) fun _ => rfl
    · exact fits.ring

theorem reportSpan_fits (fits : ChannelFits (s.chanSettings c) (s.chanLines c) (s.engine c) (s.ring c))
    (span : (s.chanSettings c).mode = .span) :
    ChannelFits (s.chanSettings c) (s.sampledLines c v)
      ((reportSpan c (s.reportOf c v) (s.atReport c v)).engine c)
      ((reportSpan c (s.reportOf c v) (s.atReport c v)).ring c) := by
  have effect := ChannelEffect.reportSpan (c := c) (s := s.atReport c v) (s.reportOf c v)
  have tie := fits.engine.modeState
  unfold modeStateFits at tie
  rw [span] at tie
  rw [effect.engine, effect.ring, atReport_chanLines]
  refine measured_fits fits (by rw [span]; decide) ?_ fun k start ended => ?_
  · unfold modeStateFits spanReported
    rw [span]
    dsimp only
    split
    · exact .inr ⟨s.now, rfl⟩
    · exact tie
  · rw [span]
    unfold spanReported at ended
    split at ended
    · unfold spanNext at ended
      dsimp only at ended
      split at ended
      · cases ended; rfl
      · cases ended
    · cases ended

theorem modeStateFits_width {r : ChanSettings} (width : r.mode = .width) (l : ChanLines) (m : ModeState) :
    modeStateFits r l m ↔
      if l.a.filtered = r.widthLevel then m = .waitInactive ∨ ∃ t, m = .inPulse t else m = .waitActive := by
  unfold modeStateFits
  rw [width]

theorem level_eq_of_ne {x y z : Level} (h : x ≠ y) (k : z ≠ y) : x = z := by
  cases x <;> cases y <;> cases z <;> first | rfl | exact absurd rfl h | exact absurd rfl k

/-- An edge of A takes each state of WIDTH to one that its new level allows (R53). -/
theorem widthReported_fits {r : ChanSettings} (width : r.mode = .width) {l l' : ChanLines} {m : ModeState}
    {edge : Bool} (edged : edge = true ↔ Edged l.a l'.a) (tie : modeStateFits r l m) (now : Tick) :
    modeStateFits r l' (widthReported r l' now edge m).1 ∧
      ∀ k start, (widthReported r l' now edge m).2 = some (k, start) → k = .width := by
  have unmoved (fits : modeStateFits r l' m) : modeStateFits r l' (m, (none : Option (EntryKind × Tick))).1 ∧
      ∀ k start, (m, (none : Option (EntryKind × Tick))).2 = some (k, start) → k = .width :=
    ⟨fits, fun _ _ h => nomatch h⟩
  rw [modeStateFits_width width] at tie
  unfold widthReported
  by_cases moved : edge = true
  · rw [if_pos moved]
    have apart := edged.mp moved
    by_cases active : l'.a.filtered = r.widthLevel
    · rw [if_neg fun was => apart (active.trans was.symm)] at tie
      rw [tie, decide_eq_true active, modeStateFits_width width, if_pos active]
      exact ⟨.inr ⟨now, rfl⟩, fun _ _ h => nomatch h⟩
    · rw [if_pos (level_eq_of_ne apart.symm (Ne.symm active))] at tie
      rw [decide_eq_false active, modeStateFits_width width, if_neg active]
      rcases tie with rfl | ⟨start, rfl⟩
      · exact ⟨rfl, fun _ _ h => nomatch h⟩
      · exact ⟨rfl, fun _ _ h => by cases h; rfl⟩
  · rw [if_neg moved]
    refine unmoved ?_
    rw [edged, not_not] at moved
    rwa [modeStateFits_width width, moved]

theorem reportWidth_fits (fits : ChannelFits (s.chanSettings c) (s.chanLines c) (s.engine c) (s.ring c))
    (width : (s.chanSettings c).mode = .width) :
    ChannelFits (s.chanSettings c) (s.sampledLines c v)
      ((reportWidth c (s.reportOf c v) (s.atReport c v)).engine c)
      ((reportWidth c (s.reportOf c v) (s.atReport c v)).ring c) := by
  have effect := ChannelEffect.reportWidth (c := c) (s := s.atReport c v) (s.reportOf c v)
  obtain ⟨tie, kind⟩ := widthReported_fits width (reportOf_edgeA s c v) fits.engine.modeState s.now
  rw [effect.engine, effect.ring, atReport_chanLines]
  refine measured_fits fits (by rw [width]; decide) tie fun k start ended => ?_
  rw [width, kind k start ended]
  rfl

/-- A sample of a channel keeps its law. -/
theorem takeReport_fits (fits : ChannelFits (s.chanSettings c) (s.chanLines c) (s.engine c) (s.ring c)) :
    ChannelFits (s.chanSettings c) (s.sampledLines c v)
      ((takeReport c (s.reportOf c v) (s.atReport c v)).engine c)
      ((takeReport c (s.reportOf c v) (s.atReport c v)).ring c) := by
  unfold takeReport
  rw [show (s.atReport c v).chanSettings c = s.chanSettings c from rfl]
  split
  · exact ⟨engineFits_of_off ‹_› fits.engine, fits.ring⟩
  · exact reportQuad_fits fits ‹_›
  · exact reportTally_fits fits ‹_›
  · exact reportSpan_fits fits ‹_›
  · exact reportWidth_fits fits ‹_›

/-- A channel that times a period is in SPAN. -/
theorem span_of_timing {r : ChanSettings} {l : ChanLines} {start : Tick} (tie : modeStateFits r l (.timing start)) :
    r.mode = .span := by
  unfold modeStateFits gateState at tie
  split at tie
  · cases tie
  · cases tie
  · exfalso
    split at tie
    · cases tie
    · split at tie <;> cases tie
    · split at tie <;> cases tie
  · assumption
  · exfalso
    split at tie
    · rcases tie with h | ⟨_, h⟩ <;> cases h
    · cases tie

/-- A channel in a pulse is in WIDTH with A at the width level. -/
theorem width_of_inPulse {r : ChanSettings} {l : ChanLines} {start : Tick} (tie : modeStateFits r l (.inPulse start)) :
    r.mode = .width ∧ l.a.filtered = r.widthLevel := by
  unfold modeStateFits gateState at tie
  split at tie
  · cases tie
  · cases tie
  · exfalso
    split at tie
    · cases tie
    · split at tie <;> cases tie
    · split at tie <;> cases tie
  · rcases tie with h | ⟨_, h⟩ <;> cases h
  · split at tie
    · exact ⟨‹_›, ‹_›⟩
    · cases tie

theorem overrangeEnd_fits (fits : ChannelFits (s.chanSettings c) (s.chanLines c) (s.engine c) (s.ring c)) :
    ChannelFits (s.chanSettings c) (s.chanLines c) ((overrangeEnd c s).engine c) ((overrangeEnd c s).ring c) := by
  obtain ⟨engine, ring⟩ := fits
  have tie := engine.modeState
  unfold overrangeEnd
  split
  · rename_i start timing
    rw [timing] at tie
    have span := span_of_timing tie
    have effect := ((ChannelEffect.refl c s).endMeasurement .period (BitVec.allOnes 32) true).modeState .waitFirst
    rw [effect.engine, effect.ring]
    refine ⟨⟨?_, engine.quadAlone, engine.tallyAlone, engine.indexCond, engine.armed⟩, ?_⟩
    · unfold modeStateFits
      rw [span]
      exact .inl rfl
    · exact Ring.fits_afterPush ring (by rw [span]; rfl) (fun index => nomatch index) fun _ => rfl
  · rename_i start pulse
    rw [pulse] at tie
    obtain ⟨width, level⟩ := width_of_inPulse tie
    have effect := ((ChannelEffect.refl c s).endMeasurement .width (BitVec.allOnes 32) true).modeState .waitInactive
    rw [effect.engine, effect.ring]
    refine ⟨⟨?_, engine.quadAlone, engine.tallyAlone, engine.indexCond, engine.armed⟩, ?_⟩
    · exact (modeStateFits_width width _ _).mpr (by rw [if_pos level]; exact .inl rfl)
    · exact Ring.fits_afterPush ring (by rw [width]; rfl) (fun index => nomatch index) fun _ => rfl
  · exact ⟨engine, ring⟩

end

/-! ### The other moves -/

theorem channelsFit_of {s t : State} (settings : ∀ c, t.chanSettings c = s.chanSettings c)
    (running : s.running → t.running)
    (fits : ∀ c, ChannelFits (s.chanSettings c) (s.chanLines c) (s.engine c) (s.ring c) →
      ChannelFits (s.chanSettings c) (t.chanLines c) (t.engine c) (t.ring c))
    (inv : s.channelsFit) : t.channelsFit := by
  intro c
  obtain ⟨channel, off⟩ := inv c
  rw [settings]
  exact ⟨fits c channel, fun still => off fun run => still (running run)⟩

theorem channelsFit_of_only {fs : List Field} {s t : State} (h : SameExcept fs s t)
    (apart : ∀ f, f ∈ fs → f ∉ [Field.phase, .settings, .lines, .engines, .rings]) (inv : s.channelsFit) :
    t.channelsFit := by
  have free {f : Field} (needed : f ∈ [Field.phase, .settings, .lines, .engines, .rings]) : f ∉ fs :=
    fun inFs => apart f inFs needed
  have phase : t.phase = s.phase := h .phase (free (by decide))
  exact channelsFit_of (h.chanSettings_eq (free (by decide))) (fun run => phase.trans run) (fun c fits => by
    rwa [h.chanLines_eq (free (by decide)), h.engine_eq (free (by decide)), h.ring_eq (free (by decide))]) inv

/-- Where every channel is OFF with a reset engine and an empty ring, all fit. -/
theorem channelsFit_of_reset {s : State} (settings : s.settings = State.reset.settings)
    (engines : s.engines = State.reset.engines) (rings : s.rings = State.reset.rings) : s.channelsFit := by
  intro c
  have record : s.chanSettings c = .default := by simp [State.chanSettings, settings, State.reset]
  have engine : s.engine c = .reset := by simp [State.engine, engines, State.reset]
  have ring : s.ring c = .reset := by simp [State.ring, rings, State.reset]
  rw [record, engine, ring]
  exact ⟨⟨engineFits_reset _, Ring.fits_nil _ _⟩, fun _ => rfl⟩

/-- An operation on the engine of one channel. -/
theorem setEngine_keeps_channelsFit {s : State} (c : Chan) (x : Engine)
    (fits : EngineFits (s.chanSettings c) (s.chanLines c) (s.engine c) →
      EngineFits (s.chanSettings c) (s.chanLines c) x) (inv : s.channelsFit) : (s.setEngine c x).channelsFit := by
  refine channelsFit_of (s := s) (fun _ => rfl) id (fun d channel => ?_) inv
  rw [State.engine_setEngine]
  split
  · rename_i here; subst here; exact ⟨fits channel.engine, channel.ring⟩
  · exact channel

theorem takeSample_keeps_channelsFit (u : Sample) {s : State} (inv : s.channelsFit) :
    (takeSample u s).channelsFit := by
  cases u with
  | chan c v =>
    have only := takeSample_chan_only c v s
    have phase : (takeSample (.chan c v) s).phase = s.phase := only .phase (by decide)
    refine channelsFit_of (only.chanSettings_eq (by decide)) (fun run => phase.trans run) (fun d fits => ?_) inv
    by_cases here : c = d
    · subst here
      rw [takeSample_chanLines, if_pos rfl, takeSample_chan]
      exact takeReport_fits fits
    · obtain ⟨engine, ring, -⟩ := takeSample_elsewhere c v s d (Ne.symm here)
      rwa [takeSample_chanLines, if_neg here, engine, ring]
  | cap n v => exact channelsFit_of_only (takeSample_cap_only n v s) (by decide) inv

theorem advance_runs {s : State} (run : s.running) : (advance s).running := by
  unfold advance
  rw [show s.phase = .running from run]
  exact run

/-- A tuning change brings the index condition and the homing into line with the new record (R120, R121). -/
theorem tuned_fits (quadrant : Option AB) (polarity : Level) (home : Word) {old : ChanSettings} {l : ChanLines}
    {e : Engine} (fits : EngineFits old l e) :
    EngineFits { old with indexQuadrant := quadrant, indexPolarity := polarity, homeValue := home } l
      (e.tuned old { old with indexQuadrant := quadrant, indexPolarity := polarity, homeValue := home } l) := by
  unfold Engine.tuned
  dsimp only
  by_cases quad : old.mode = .quad
  · rw [if_pos quad]
    by_cases lost : old.indexQuadrant ≠ none ∧ quadrant = none
    · rw [if_pos lost]
      exact ⟨fits.modeState, fun other => absurd quad other, fits.tallyAlone,
        fun _ => by unfold indexCondition; rw [lost.2], fun on => nomatch on⟩
    · rw [if_neg lost]
      have armed (on : e.homingArmed = true) : quadrant ≠ none := fun none => lost ⟨fits.armed on, none⟩
      by_cases moved : old.indexQuadrant ≠ quadrant ∨ old.indexPolarity ≠ polarity
      · rw [if_pos moved]
        exact ⟨fits.modeState, fun other => absurd quad other, fits.tallyAlone, fun _ => rfl, armed⟩
      · rw [if_neg moved]
        rw [not_or, not_not, not_not] at moved
        obtain ⟨rfl, rfl⟩ := moved
        exact ⟨fits.modeState, fun other => absurd quad other, fits.tallyAlone, fits.indexCond, armed⟩
  · rw [if_neg quad]
    exact ⟨fits.modeState, fits.quadAlone, fits.tallyAlone, fun other => absurd other quad,
      fun on => by rw [(fits.quadAlone quad).2.2] at on; cases on⟩

theorem storeChannel_keeps_channelsFit (c : Chan) (new : ChanSettings) {s : State} (run : s.running)
    (inv : s.channelsFit) : (storeChannel c new s).1.channelsFit := by
  have phase : (storeChannel c new s).1.phase = s.phase := storeChannel_only c new s .phase (by decide)
  intro d
  refine ⟨?_, fun still => absurd (phase.trans run) still⟩
  have fits := (inv d).1
  unfold storeChannel
  split <;> dsimp only
  · rw [reconfigure_chanSettings, reconfigure_chanLines, reconfigure_engine, reconfigure_ring]
    split
    · exact ⟨engineFits_enterMode _ _ _, Ring.fits_nil _ _⟩
    · exact fits
  · rename_i tunes
    have record := structuralDiffers_eq_false.mp (Bool.eq_false_of_not_eq_true tunes)
    rw [tuningChange_chanSettings, tuningChange_engine, (tuningChange_only c new s).chanLines_eq (by decide),
      (tuningChange_only c new s).ring_eq (by decide)]
    split
    · rename_i here
      subst here
      rw [← record]
      exact ⟨tuned_fits _ _ _ fits.engine, fits.ring⟩
    · exact fits

theorem presetBody_keeps_channelsFit (pl : List Byte) (c : Chan) {s : State} (inv : s.channelsFit) :
    (presetBody pl c s).1.channelsFit := by
  by_cases quad : (s.chanSettings c).mode = .quad
  · have only := presetBody_only pl c s
    have phase : (presetBody pl c s).1.phase = s.phase := only .phase (by decide)
    refine channelsFit_of (only.chanSettings_eq (by decide)) (fun run => phase.trans run) (fun d fits => ?_) inv
    rw [only.chanLines_eq (by decide), only.ring_eq (by decide), presetBody_of_quad quad]
    dsimp only
    rw [preset_engine]
    split
    · rename_i here
      subst here
      exact ⟨⟨fits.engine.modeState, fun other => absurd quad other, fits.engine.tallyAlone, fits.engine.indexCond,
        fits.engine.armed⟩, fits.ring⟩
    · exact fits
  · rwa [presetBody_of_other quad]

theorem move_keeps_channelsFit {fs : List Field} {s t : State} (m : Move fs s t) (inv : s.channelsFit) :
    t.channelsFit := by
  by_cases apart : ∀ f, f ∈ fs → f ∉ [Field.phase, .settings, .lines, .engines, .rings]
  · exact channelsFit_of_only m.only apart inv
  · cases m with
    | advance =>
      have only := advance_only s
      refine channelsFit_of (only.chanSettings_eq (by decide)) (fun run => ?_) (fun c fits => ?_) inv
      · exact advance_runs run
      · obtain ⟨a, b, z, -⟩ := advance_lines s c 0
        rw [only.engine_eq (by decide), only.ring_eq (by decide)]
        exact ⟨engineFits_of_levels (congrArg _ a) (congrArg _ b) (congrArg _ z) fits.engine, fits.ring⟩
    | startReset => exact channelsFit_of_reset rfl rfl rfl
    | holdReset _ elapsed interval =>
      have off : ¬ s.running := fun run => by
        rw [State.running, interval] at run
        cases run
      intro c
      exact ⟨(inv c).1, fun _ => (inv c).2 off⟩
    | endReset _ pins reset =>
      intro c
      obtain ⟨⟨engine, ring⟩, off⟩ := inv c
      exact ⟨⟨engineFits_of_off (off reset) engine, ring⟩, fun still => absurd rfl still⟩
    | sample _ u => exact takeSample_keeps_channelsFit u inv
    | overrange _ c =>
      have only := overrangeEnd_only c s
      have phase : (overrangeEnd c s).phase = s.phase := only .phase (by decide)
      refine channelsFit_of (only.chanSettings_eq (by decide)) (fun run => phase.trans run) (fun d fits => ?_) inv
      rw [only.chanLines_eq (by decide)]
      by_cases here : c = d
      · subst here
        exact overrangeEnd_fits fits
      · obtain ⟨engine, ring, -⟩ := overrangeEnd_elsewhere c s d (Ne.symm here)
        rwa [engine, ring]
    | setChannel _ c new run => exact storeChannel_keeps_channelsFit c new run inv
    | preset _ pl c => exact presetBody_keeps_channelsFit pl c inv
    | home _ c =>
      unfold homeBody
      dsimp only
      split
      · rename_i able
        exact setEngine_keeps_channelsFit c _ (fun fits => ⟨fits.modeState, fun other => absurd able.1 other,
          fits.tallyAlone, fits.indexCond, fun _ => able.2⟩) inv
      · exact inv
    | homeCancel _ c =>
      exact setEngine_keeps_channelsFit c _ (fun fits => ⟨fits.modeState,
        fun other => ⟨(fits.quadAlone other).1, (fits.quadAlone other).2.1, rfl⟩, fits.tallyAlone, fits.indexCond,
        fun on => nomatch on⟩) inv
    | deviceReset => exact channelsFit_of_reset rfl rfl rfl
    | _ => exact absurd (by decide) apart

/-- Settles O57: a report takes each mode state to the one its new levels allow, a change of mode enters with the
kept levels and an empty ring, and a reset leaves every channel OFF. -/
theorem stepKeepsEngineInv : Obligations.StepKeepsEngineInv := by
  unfold Obligations.StepKeepsEngineInv
  intro s t engines rings h
  exact (channelsFit_iff t).mp
    ((step_moves h).keeps move_keeps_channelsFit ((channelsFit_iff s).mpr ⟨engines, rings⟩))

end Sys2Proof.Machine
end

section
/-! PROOFS. What every step keeps of the ports: the frame in progress, and the lengths of the responses. -/

namespace Sys2Proof.Machine

open Sys2Proof

/-! ### The frame in progress (R178, R179, R181, R197) -/

/-- The law of a port: `running` says whether the device runs. -/
structure PortIf.Fits (running : Prop) (pt : PortIf) : Prop where
  presents : pt.recv = .receiving → pt.presented = pt.slot
  kept : pt.frameBytes.length = min 28 pt.wholeBytes.toNat
  bits : pt.bits.length ≤ 7
  runs : pt.recv = .receiving → running

theorem portInv_iff (s : State) : PortInv s ↔ ∀ p, (s.port p).Fits s.running := by
  constructor
  · intro h p
    obtain ⟨presents, kept, bits, runs⟩ := h p
    exact ⟨presents, kept, bits, runs⟩
  · intro h p
    obtain ⟨presents, kept, bits, runs⟩ := h p
    exact ⟨presents, kept, bits, runs⟩

theorem PortIf.fits_of_not_receiving {running : Prop} {pt : PortIf} (still : pt.recv ≠ .receiving)
    (kept : pt.frameBytes.length = min 28 pt.wholeBytes.toNat) (bits : pt.bits.length ≤ 7) : pt.Fits running :=
  ⟨fun h => absurd h still, kept, bits, fun h => absurd h still⟩

theorem satInc_toNat (b : Byte) : (satInc b).toNat = min 255 (b.toNat + 1) := by
  have most := b.isLt
  unfold satInc
  split
  · rename_i full
    subst full
    rfl
  · rename_i room
    have short : b.toNat ≠ 255 := fun h => room (BitVec.eq_of_toNat_eq h)
    rw [BitVec.toNat_add, show (1 : Byte).toNat = 1 from rfl, Nat.mod_eq_of_lt (by omega)]
    omega

theorem takeEdge_fits {running : Prop} (e : ClockEdge) {pt : PortIf} (fits : pt.Fits running) :
    (takeEdge e pt).Fits running := by
  obtain ⟨recv, -, presented, slot, -⟩ := takeEdge_keeps e pt
  have frame : (takeEdge e pt).frameBytes.length = min 28 (takeEdge e pt).wholeBytes.toNat ∧
      (takeEdge e pt).bits.length ≤ 7 := by
    rcases takeEdge_cases e pt with ⟨-, h⟩ | ⟨-, -, h⟩ | ⟨-, v, -, h⟩
    · rw [h]; exact ⟨fits.kept, fits.bits⟩
    · rw [h]; exact ⟨fits.kept, fits.bits⟩
    · rw [h]
      rcases receiveBit_cases v pt with ⟨-, k⟩ | ⟨-, room, k⟩ | ⟨-, -, k⟩
      · rw [k]; exact ⟨fits.kept, fits.bits⟩
      · rw [k]
        refine ⟨fits.kept, ?_⟩
        rw [List.length_append, List.length_singleton]
        omega
      · rw [k]
        have kept := fits.kept
        refine ⟨?_, Nat.zero_le 7⟩
        unfold receiveByte
        dsimp only
        rw [satInc_toNat]
        split
        · rw [List.length_append, List.length_singleton]
          omega
        · omega
  exact ⟨fun h => by rw [presented, slot]; exact fits.presents (recv.symm.trans h), frame.1, frame.2,
    fun h => fits.runs (recv.symm.trans h)⟩

theorem portAtTick_fits {running : Prop} (edges : List ClockEdge) {pt : PortIf} (fits : pt.Fits running) :
    (portAtTick edges pt).Fits running := by
  have taken : (edges.foldl (fun pt e => takeEdge e pt) pt).Fits running := by
    induction edges generalizing pt with
    | nil => exact fits
    | cons e later ih => exact ih (takeEdge_fits e fits)
  exact ⟨taken.presents, taken.kept, taken.bits, taken.runs⟩

theorem wholeCount_toNat (n : Nat) : (wholeCount n).toNat = min n 255 := by
  rw [wholeCount, BitVec.toNat_ofNat, Nat.mod_eq_of_lt (by omega)]

theorem endFramePort_fits (running : Prop) (bytes : List Byte) (pt : PortIf) :
    (endFramePort bytes pt).Fits running := by
  refine PortIf.fits_of_not_receiving (by simp [endFramePort]) ?_ (Nat.zero_le 7)
  show (bytes.take 28).length = min 28 (wholeCount bytes.length).toNat
  rw [List.length_take, wholeCount_toNat]
  omega

theorem resetOtherPort_fits (running : Prop) (pt : PortIf) : (resetOtherPort pt).Fits running := by
  refine PortIf.fits_of_not_receiving ?_ rfl (Nat.zero_le 7)
  unfold resetOtherPort
  dsimp only
  split
  · simp
  · assumption

theorem portAtResetEnd_fits (running : Prop) (select : Level) : (portAtResetEnd select).Fits running := by
  refine PortIf.fits_of_not_receiving ?_ rfl (Nat.zero_le 7)
  unfold portAtResetEnd
  dsimp only
  split <;> simp

theorem advance_port_still {s : State} (still : ¬ s.running) (p : Port) : (advance s).port p = s.port p := by
  unfold advance
  split
  · exact absurd ‹_› still
  · rfl
  · rfl

theorem portInv_of_ports {s t : State} (running : s.running → t.running)
    (fits : ∀ p, (s.port p).Fits s.running → (t.port p).Fits s.running) (inv : PortInv s) : PortInv t := by
  rw [portInv_iff] at inv ⊢
  intro p
  obtain ⟨presents, kept, bits, runs⟩ := fits p (inv p)
  exact ⟨presents, kept, bits, fun h => running (runs h)⟩

theorem setPort_keeps_portInv {s : State} (p : Port) (pt : PortIf)
    (fits : (s.port p).Fits s.running → pt.Fits s.running) (inv : PortInv s) : PortInv (s.setPort p pt) := by
  refine portInv_of_ports (s := s) id (fun q was => ?_) inv
  rw [State.port_setPort]
  split
  · rename_i here; subst here; exact fits was
  · exact was

theorem move_keeps_portInv {fs : List Field} {s t : State} (m : Move fs s t) (inv : PortInv s) : PortInv t := by
  by_cases apart : Field.phase ∉ fs ∧ Field.ports ∉ fs
  · have phase : t.phase = s.phase := m.only .phase apart.1
    refine portInv_of_ports (fun run => phase.trans run) (fun p fits => ?_) inv
    rwa [m.only.port_eq apart.2]
  · cases m with
    | advance =>
      by_cases run : s.running
      · refine portInv_of_ports advance_runs (fun p fits => ?_) inv
        rw [advance_port run]
        exact portAtTick_fits _ fits
      · refine portInv_of_ports (fun h => absurd h run) (fun p fits => ?_) inv
        rwa [advance_port_still run]
    | startReset _ phase =>
      refine (portInv_iff _).mpr fun p => ?_
      have port : (startReset phase s).port p = resetOtherPort (s.port p) := by simp [startReset, State.port]
      rw [port]
      exact resetOtherPort_fits _ _
    | holdReset _ elapsed interval =>
      refine portInv_of_ports (s := s) (fun run => ?_) (fun p fits => fits) inv
      rw [State.running, interval] at run
      cases run
    | endReset _ pins =>
      refine (portInv_iff _).mpr fun p => ?_
      have port : (endReset pins s).port p = portAtResetEnd (tget pins.select p) := by simp [endReset, State.port]
      rw [port]
      exact portAtResetEnd_fits _ _
    | frameStart _ p run =>
      exact setPort_keeps_portInv p _ (fun fits => ⟨fun _ => rfl, rfl, Nat.zero_le 7, fun _ => run⟩) inv
    | frameEnd _ p bytes => exact setPort_keeps_portInv p _ (fun _ => endFramePort_fits _ _ _) inv
    | emptyEnd _ p =>
      exact setPort_keeps_portInv p _
        (fun fits => PortIf.fits_of_not_receiving (by simp) fits.kept (Nat.zero_le 7)) inv
    | abandonedEnd _ p =>
      exact setPort_keeps_portInv p _
        (fun fits => PortIf.fits_of_not_receiving (by simp) fits.kept fits.bits) inv
    | place _ p tag r idle =>
      exact setPort_keeps_portInv p _
        (fun fits => PortIf.fits_of_not_receiving (by simp [idle]) fits.kept fits.bits) inv
    | collide _ p =>
      exact setPort_keeps_portInv p _
        (fun fits => ⟨fits.presents, fits.kept, fits.bits, fits.runs⟩) inv
    | deviceReset _ p idle =>
      refine portInv_of_ports (s := s) id (fun q fits => ?_) inv
      have port : (deviceResetBody p s).1.port q =
          if q = p then resetIssuer (s.port q) else resetOtherPort (s.port q) := by
        simp [deviceResetBody, State.port, settleLines, resetBlocks]
      rw [port]
      split
      · rename_i here
        subst here
        exact PortIf.fits_of_not_receiving (by simp [resetIssuer, idle]) rfl (Nat.zero_le 7)
      · exact resetOtherPort_fits _ _
    | _ => exact absurd (by decide) apart

/-! ### The lengths of the responses (R190) -/

/-- A reply that a response slot can carry. -/
def Reply.Fits (r : Reply) : Prop := r.payload.length ≤ 128

theorem reply_fits {r : Reply} (short : Nat.ble r.payload.length 128 = true) : r.Fits := Nat.le_of_ble_eq_true short

theorem length_flatten_map {α : Type} {f : α → List Byte} {n : Nat} {l : List α} (each : ∀ x, (f x).length = n) :
    ((l.map f).flatten).length = l.length * n := by
  induction l with
  | nil => simp
  | cons x l ih => rw [List.map_cons, List.flatten_cons, List.length_append, each, ih, List.length_cons,
      Nat.add_comm, Nat.succ_mul]

theorem noticeBytes_length (n : Notice) : (noticeBytes n).length = 17 := by
  unfold noticeBytes
  cases n.source <;> rfl

theorem gateChannel_fits {p : Port} {pl : List Byte} {body : Chan → State → State × Reply} {s : State}
    (each : ∀ c, (body c s).2.Fits) : (gateChannel p pl body s).2.Fits := by
  unfold gateChannel
  split
  · exact reply_fits rfl
  · dsimp only
    split
    · exact each _
    · exact reply_fits rfl

theorem gateDev_fits {p : Port} {body : State → State × Reply} {s : State} (fits : (body s).2.Fits) :
    (gateDev p body s).2.Fits := by
  unfold gateDev
  dsimp only
  split
  · exact fits
  · exact reply_fits rfl

theorem withChannel_fits {pl : List Byte} {body : Chan → State → State × Reply} {s : State}
    (each : ∀ c, (body c s).2.Fits) : (withChannel pl body s).2.Fits := by
  unfold withChannel
  split
  · exact reply_fits rfl
  · exact each _

theorem claimBody_fits (p : Port) (pl : List Byte) (s : State) : (claimBody p pl s).2.Fits := by
  unfold claimBody claimResource
  split
  · dsimp only
    split
    · exact reply_fits rfl
    · split
      · exact reply_fits rfl
      · split
        · exact reply_fits rfl
        · split <;> exact reply_fits rfl
  · exact reply_fits rfl

theorem releaseBody_fits (p : Port) (pl : List Byte) (s : State) : (releaseBody p pl s).2.Fits := by
  unfold releaseBody releaseResource
  split
  · dsimp only
    split
    · exact reply_fits rfl
    · split <;> exact reply_fits rfl
  · exact reply_fits rfl

theorem setChannelBody_fits (pl : List Byte) (c : Chan) (s : State) : (setChannelBody pl c s).2.Fits := by
  unfold setChannelBody storeChannel
  split
  · split <;> exact reply_fits rfl
  · exact reply_fits rfl

theorem drainBody_fits (p : Port) (pl : List Byte) (c : Chan) {s : State} (inv : RingInv s) :
    (drainBody p pl c s).2.Fits := by
  unfold drainBody
  dsimp only
  split
  · rename_i range
    rw [entriesFrom_cursor inv p c (Nat.min_le_right _ _)]
    have entries := length_flatten_map (f := ringEntryBytes) (n := 16)
      (l := ((s.ring c).entries.drop ((s.ring c).entries.length - (s.unread p c).toNat)).take
        (min (byteAt pl 1).toNat (s.unread p c).toNat)) fun _ => rfl
    have few := List.length_take_le (min (byteAt pl 1).toNat (s.unread p c).toNat)
      ((s.ring c).entries.drop ((s.ring c).entries.length - (s.unread p c).toNat))
    unfold Reply.Fits okReply
    dsimp only
    rw [List.length_append, entries]
    simp only [List.length_append, le2, le4, List.length_cons, List.length_nil]
    omega
  · exact reply_fits rfl

theorem latestEntryBytes_length (r : Ring) : (latestEntryBytes r).length = 17 := by
  unfold latestEntryBytes
  split <;> rfl

theorem readChannelBody_fits (c : Chan) (s : State) : (readChannelBody c s).2.Fits := by
  unfold readChannelBody Reply.Fits okReply
  dsimp only
  simp only [List.length_append, latestEntryBytes_length, le2, le4, le6, List.length_cons, List.length_nil]
  decide

theorem snapSourceOf_fits {pl : List Byte} {s : State} {r : Reply} (h : snapSourceOf pl s = .error r) :
    r.Fits := by
  unfold snapSourceOf at h
  dsimp only at h
  split at h
  · cases h
  · split at h
    · split at h
      · cases h; exact reply_fits rfl
      · cases h
    · cases h; exact reply_fits rfl
  · split at h
    · split at h
      · cases h
      · cases h; exact reply_fits rfl
    · cases h; exact reply_fits rfl
  · cases h
  · cases h; exact reply_fits rfl

/-- A refusal of SNAP_ARM carries at most two bytes (R138 to R141). -/
theorem snapArmCheck_fits {p : Port} {pl : List Byte} {s : State} {r : Reply} (h : snapArmCheck p pl s = .error r) :
    r.Fits := by
  unfold snapArmCheck at h
  split at h
  · cases h; exact reply_fits rfl
  · split at h
    · rename_i refused
      cases h
      exact snapSourceOf_fits refused
    · split at h
      · cases h; exact reply_fits rfl
      · split at h
        · cases h; exact reply_fits rfl
        · cases h

theorem snapArmBody_fits (p : Port) (pl : List Byte) (s : State) : (snapArmBody p pl s).2.Fits := by
  unfold snapArmBody
  split
  · exact snapArmCheck_fits ‹_›
  · exact reply_fits rfl

theorem currentHandle_error_fits {p : Port} {pl : List Byte} {s : State} {r : Reply}
    (h : currentHandle p pl s = .error r) : r.Fits := by
  unfold currentHandle at h
  split at h
  · cases h; exact reply_fits rfl
  · split at h
    · cases h; exact reply_fits rfl
    · split at h
      · cases h; exact reply_fits rfl
      · split at h
        · cases h; exact reply_fits rfl
        · cases h

/-- A handle that passes the checks names a slot that holds the snapshot. -/
theorem currentHandle_ok {p : Port} {pl : List Byte} {s : State} {i : SlotIdx} {sn : Snapshot}
    (h : currentHandle p pl s = .ok (i, sn)) :
    finOf 24 (byteAt pl 0) = some i ∧ (s.slot i).body = some sn ∧ (s.slot i).generation = byteAt pl 1 ∧
      sn.owner = p := by
  unfold currentHandle at h
  split at h
  · cases h
  · split at h
    · cases h
    · split at h
      · cases h
      · split at h
        · cases h
        · rename_i named _ _ held current own
          cases h
          exact ⟨named, held, not_not.mp current, not_not.mp own⟩

theorem snapHead_length (i : SlotIdx) (g : Byte) (sn : Snapshot) : (snapHead i g sn).length = 18 := rfl

/-- The record of a lawful snapshot has at most 128 bytes (R190, R205). -/
theorem snapRecord_length_le {sn : Snapshot} {fires : SnapSource → Prop} (lawful : sn.Lawful fires) (i : SlotIdx)
    (g : Byte) : (snapRecord i g sn).length ≤ 128 := by
  obtain ⟨-, few, -, -, phase⟩ := lawful
  unfold snapRecord
  split
  · rw [snapHead_length]
    decide
  · rename_i t es captured
    rw [captured] at phase
    have entries := congrArg List.length (show es.map (·.channel) = sn.channels from phase)
    rw [List.length_map] at entries
    rw [List.length_append, List.length_append, snapHead_length,
      length_flatten_map (n := 13) fun _ => rfl, entries]
    simp only [le6, List.length_cons, List.length_nil]
    omega
  · rw [List.length_append, snapHead_length, List.length_singleton]
    decide

theorem snapReadBody_fits (p : Port) (pl : List Byte) {s : State} (inv : SnapInv s) :
    (snapReadBody p pl s).2.Fits := by
  unfold snapReadBody
  split
  · exact currentHandle_error_fits ‹_›
  · rename_i i sn current
    obtain ⟨-, held, -⟩ := currentHandle_ok current
    have lawful := (snapInv_iff s).mp inv i sn held
    split
    · exact reply_fits rfl
    · exact snapRecord_length_le lawful i _

theorem snapDiscardBody_fits (p : Port) (pl : List Byte) (s : State) : (snapDiscardBody p pl s).2.Fits := by
  unfold snapDiscardBody
  split
  · exact currentHandle_error_fits ‹_›
  · exact reply_fits rfl

theorem snapListBody_fits (p : Port) (pl : List Byte) (s : State) : (snapListBody p pl s).2.Fits := by
  have few : (s.slotsOf p).length ≤ 24 := by
    have := List.length_filter_le (fun i => ownedBy p (s.slot i)) (List.finRange 24)
    rwa [List.length_finRange] at this
  have entries := length_flatten_map (n := 3) (l := s.slotsOf p)
    (f := fun i => [byteOf i.val, (s.slot i).generation, byteOf (slotStateCode (s.slot i))]) fun _ => rfl
  unfold snapListBody Reply.Fits okReply
  dsimp only
  rw [List.length_append, entries]
  simp only [List.length_cons, List.length_nil]
  omega

theorem fetchBody_fits (p : Port) (pl : List Byte) (s : State) : (fetchBody p pl s).2.Fits := by
  unfold fetchBody
  dsimp only
  split
  · rename_i range
    have few := List.length_take_le (min (byteAt pl 0).toNat (s.queue p).notices.length) (s.queue p).notices
    unfold Reply.Fits okReply
    dsimp only
    rw [List.length_append, length_flatten_map noticeBytes_length]
    simp only [List.length_cons, List.length_nil]
    omega
  · exact reply_fits rfl

/-- What a command answers fits a response slot, where the snapshot and ring invariants hold (R190). -/
theorem commandBody_fits (i : Instr) {pl : List Byte} (len : pl.length ≤ 24) {s : State} (snaps : SnapInv s)
    (rings : RingInv s) : (commandBody i pl s).2.Fits := by
  cases i with
  | ping => exact (Nat.le_trans len (by decide) : pl.length ≤ 128)
  | claim p => exact claimBody_fits p pl s
  | release p => exact releaseBody_fits p pl s
  | setChannel => exact gateChannel_fits fun c => setChannelBody_fits pl c s
  | getChannel => exact withChannel_fits fun c => reply_fits rfl
  | setDevice =>
    refine gateDev_fits ?_
    unfold setDeviceBody
    split <;> exact reply_fits rfl
  | setPort p =>
    show (setPortBody p pl s).2.Fits
    unfold setPortBody
    dsimp only
    split <;> exact reply_fits rfl
  | preset =>
    refine gateChannel_fits fun c => ?_
    unfold presetBody
    split <;> exact reply_fits rfl
  | home =>
    refine gateChannel_fits fun c => ?_
    unfold homeBody
    dsimp only
    split <;> exact reply_fits rfl
  | homeCancel => exact gateChannel_fits fun c => reply_fits rfl
  | readChannel => exact withChannel_fits fun c => readChannelBody_fits c s
  | take => exact withChannel_fits fun c => reply_fits rfl
  | peekView => exact withChannel_fits fun c => reply_fits rfl
  | setView =>
    refine withChannel_fits fun c => ?_
    unfold setViewBody
    split <;> exact reply_fits rfl
  | drain p => exact withChannel_fits fun c => drainBody_fits p pl c rings
  | snapArm p => exact snapArmBody_fits p pl s
  | snapRead p => exact snapReadBody_fits p pl snaps
  | snapDiscard p => exact snapDiscardBody_fits p pl s
  | snapList p => exact snapListBody_fits p pl s
  | fetch p => exact fetchBody_fits p pl s
  | deviceReset p => exact gateDev_fits (reply_fits rfl)
  | _ => exact reply_fits rfl

/-! ### The response slots -/

/-- Each slot of `t` holds what it held in `s`, or nothing. -/
def SlotsKept (s t : State) : Prop := ∀ p, (t.port p).slot = (s.port p).slot ∨ (t.port p).slot = none

theorem SlotsKept.responseInv {s t : State} (kept : SlotsKept s t) (inv : ResponseInv s) : ResponseInv t := by
  intro p r held
  rcases kept p with same | empty
  · exact inv p r (same.symm.trans held)
  · rw [empty] at held
    cases held

theorem SlotsKept.refl (s : State) : SlotsKept s s := fun _ => .inl rfl

theorem slotsKept_of_only {fs : List Field} {s t : State} (h : SameExcept fs s t) (ports : Field.ports ∉ fs) :
    SlotsKept s t := fun p => .inl (by rw [h.port_eq ports])

theorem slotsKept_setPort (s : State) (p : Port) {pt : PortIf} (kept : pt.slot = (s.port p).slot ∨ pt.slot = none) :
    SlotsKept s (s.setPort p pt) := by
  intro q
  rw [State.port_setPort]
  split
  · rename_i here; subst here; exact kept
  · exact .inl rfl

theorem SlotsKept.trans {s t u : State} (h : SlotsKept s t) (k : SlotsKept t u) : SlotsKept s u := by
  intro p
  rcases k p with same | empty
  · rw [same]; exact h p
  · exact .inr empty

theorem frameEnded_slotsKept (p : Port) (bytes : List Byte) (s : State) : SlotsKept s (frameEnded p bytes s) := by
  refine slotsKept_setPort s p ?_
  unfold endFramePort
  dsimp only
  split
  · split
    · exact .inr rfl
    · exact .inl rfl
  · exact .inl rfl

theorem startFrame_slotsKept (p : Port) (s : State) : SlotsKept s (startFrame p s) :=
  slotsKept_setPort s p (.inl rfl)

theorem abandonedEnd_slotsKept (p : Port) (s : State) : SlotsKept s (abandonedEnd p s) :=
  slotsKept_setPort s p (.inl rfl)

theorem collide_slotsKept (p : Port) (s : State) : SlotsKept s (collide p s) := slotsKept_setPort s p (.inl rfl)

theorem foldl_takeEdge_slot (edges : List ClockEdge) (pt : PortIf) :
    (edges.foldl (fun pt e => takeEdge e pt) pt).slot = pt.slot := by
  induction edges generalizing pt with
  | nil => rfl
  | cons e later ih =>
    obtain ⟨-, -, -, slot, -⟩ := takeEdge_keeps e pt
    exact (ih _).trans slot

theorem advance_slotsKept (s : State) : SlotsKept s (advance s) := by
  intro p
  by_cases run : s.running
  · rw [advance_port run]
    exact .inl (foldl_takeEdge_slot _ _)
  · rw [advance_port_still run]
    exact .inl rfl

theorem startReset_slotsKept (phase : ResetPhase) (s : State) : SlotsKept s (startReset phase s) :=
  fun p => .inr (by simp [startReset, State.port, resetOtherPort])

theorem endReset_slotsKept (pins : PinLevels) (s : State) : SlotsKept s (endReset pins s) :=
  fun p => .inr (by simp [endReset, State.port, portAtResetEnd, PortIf.reset])

theorem SlotsKept.ite {b : Prop} [Decidable b] {s t : State} (h : SlotsKept s t) : SlotsKept s (if b then t else s) := by
  split
  · exact h
  · exact .refl s

theorem atFrameEnd_slotsKept {p : Port} {bytes : List Byte} {work : State → State} {s : State}
    (worked : SlotsKept s (work s)) : SlotsKept s (atFrameEnd p bytes work s) := by
  rcases atFrameEnd_cases p bytes work s with h | ⟨-, -, h⟩ | ⟨-, h⟩
  · rw [h]; exact .refl s
  · rw [h]; exact abandonedEnd_slotsKept p s
  · rw [h]; exact worked

/-- A row that carries no command puts no response into a slot. -/
theorem exec_slotsKept {i : Instr} {s t : State} (h : exec i s = .next t)
    (other : ∀ p code rest, frameOf i = some (p, code :: rest) → code = 0) : SlotsKept s t := by
  cases i with
  | powerOn => cases h; exact startReset_slotsKept _ s
  | powerOnIntervalEnd pin pins =>
    cases h
    split
    · split
      · exact .refl s
      · split
        · exact endReset_slotsKept pins s
        · exact fun _ => .inl rfl
    · exact .refl s
  | resetPinAssert => cases h; exact (startReset_slotsKept _ s).ite
  | resetPinRelease pins => cases h; exact (endReset_slotsKept pins s).ite
  | lineSample u => cases h; exact (slotsKept_of_only (takeSample_only u s) (by decide)).ite
  | filteredEdge u => cases h; exact (slotsKept_of_only (takeSample_only u s) (by decide)).ite
  | overrangeExpiry c => cases h; exact (slotsKept_of_only (overrangeEnd_only c s) (by decide)).ite
  | leaseExpiry r => cases h; exact (slotsKept_of_only (expireLease_only r s) (by decide)).ite
  | armLimitExpiry j => cases h; exact (slotsKept_of_only (expireSlot_only _ _ j s) (by decide)).ite
  | timeTargetReached tick => cases h; exact (slotsKept_of_only (captureEvent_only _ s) (by decide)).ite
  | frameStart p => cases h; exact (startFrame_slotsKept p s).ite
  | emptyFrame p => cases h; exact atFrameEnd_slotsKept (slotsKept_setPort s p (.inl rfl))
  | abandonedFrameEnd p => cases h; exact (abandonedEnd_slotsKept p s).ite
  | readFrame p rest =>
    cases h
    exact atFrameEnd_slotsKept ((frameEnded_slotsKept p _ s).trans
      (slotsKept_of_only (activity_only p _) (by decide)))
  | unknownCommand p code rest =>
    have unknown := wellFormed_of_next h
    rw [other p code rest rfl] at unknown
    exact absurd (show isUnknownCode 0 = true from unknown) (by decide)
  | _ => exact absurd (other _ _ _ rfl) (by decide)

theorem place_keeps_responseInv {s : State} (p : Port) (tag : BitVec 4) {r : Reply} (fits : r.Fits)
    (inv : ResponseInv s) : ResponseInv (place p tag r s) := by
  intro q r' held
  rw [place, State.port_setPort] at held
  split at held
  · cases held
    exact fits
  · exact inv q r' held

theorem responseInv_of_only {fs : List Field} {s t : State} (h : SameExcept fs s t) (ports : Field.ports ∉ fs)
    (inv : ResponseInv s) : ResponseInv t := (slotsKept_of_only h ports).responseInv inv

theorem snapInv_of_ports {s t : State} (h : SameExcept [.ports] s t) (inv : SnapInv s) : SnapInv t :=
  snapInv_of_only h (by decide) (by decide) (by decide) inv

theorem commandBody_slotsKept (i : Instr) (pl : List Byte) (s : State) : SlotsKept s (commandBody i pl s).1 := by
  by_cases reset : ∃ p rest, i = .deviceReset p rest
  · obtain ⟨p, rest, rfl⟩ := reset
    show SlotsKept s (gateDev p (deviceResetBody p) s).1
    unfold gateDev
    dsimp only
    split
    · refine fun q => .inr ?_
      have port : (deviceResetBody p s).1.port q =
          if q = p then resetIssuer (s.port q) else resetOtherPort (s.port q) := by
        simp [deviceResetBody, State.port, settleLines, resetBlocks]
      rw [port]
      split <;> rfl
    · exact .refl s
  · have ports := (commandBody_only i pl s).2 fun p rest e => reset ⟨p, rest, e⟩
    exact fun p => .inl (by simp only [State.port, ports])

/-- A command frame places what fits (R190). -/
theorem commandFrame_keeps_responseInv (i : Instr) (p : Port) (code : Byte) (rest : List Byte) {s : State}
    (snaps : SnapInv s) (rings : RingInv s) (inv : ResponseInv s) :
    ResponseInv (commandFrame p code rest (commandBody i) s) := by
  have only := frameEnded_only p (code :: rest) s
  have ended := (frameEnded_slotsKept p (code :: rest) s).responseInv inv
  have active {u : State} (h : ResponseInv u) : ResponseInv (activity p u) :=
    responseInv_of_only (activity_only p u) (by decide) h
  have collided {u : State} (h : ResponseInv u) : ResponseInv (collide p u) :=
    (collide_slotsKept p u).responseInv h
  rcases atFrameEnd_cases p (code :: rest)
      (fun s => runCommand p code rest (commandBody i) (frameEnded p (code :: rest) s)) s with
    h | ⟨-, -, h⟩ | ⟨-, h⟩
  · rw [commandFrame, h]
    exact inv
  · rw [commandFrame, h]
    exact (abandonedEnd_slotsKept p s).responseInv inv
  · rw [commandFrame, h]
    rcases runCommand_cases p code rest (commandBody i) (frameEnded p (code :: rest) s) with
      ⟨tag, r, short, k⟩ | k | k | ⟨tag, pl, len, -, k⟩
    · rw [k]
      exact place_keeps_responseInv p tag (Nat.le_trans short (by decide)) ended
    · rw [k]
      exact collided ended
    · rw [k]
      exact active (collided ended)
    · rw [k]
      have fits := commandBody_fits i len (snapInv_of_ports only snaps)
        (ringInv_of_only only (by decide) (by decide) rings)
      exact active (place_keeps_responseInv p tag fits ((commandBody_slotsKept i pl _).responseInv ended))

theorem exec_keeps_responseInv {i : Instr} {s t : State} (h : exec i s = .next t) (snaps : SnapInv s)
    (rings : RingInv s) (inv : ResponseInv s) : ResponseInv t := by
  by_cases command : ∃ p code rest, frameOf i = some (p, code :: rest) ∧ code ≠ 0
  · obtain ⟨p, code, rest, ends, command⟩ := command
    rw [exec_commandRow s (wellFormed_of_next h) ends command] at h
    cases h
    exact commandFrame_keeps_responseInv i p code rest snaps rings inv
  · refine (exec_slotsKept h fun p code rest ends => ?_).responseInv inv
    by_contra ne
    exact command ⟨p, code, rest, ends, ne⟩

theorem step_keeps_responseInv {s t : State} (h : step s = .next t) (snaps : SnapInv s) (rings : RingInv s)
    (inv : ResponseInv s) : ResponseInv t := by
  cases queue : s.pending with
  | nil =>
    rcases step_of_empty_queue queue with ⟨-, k⟩ | ⟨-, k⟩
    · cases h.symm.trans k
      exact responseInv_of_only (enqueue_only s _) (by decide) inv
    · cases h.symm.trans k
      exact (advance_slotsKept s).responseInv inv
  | cons i rest =>
    simp only [step, queue] at h
    exact exec_keeps_responseInv (s := { s with pending := rest }) h snaps rings inv

/-- Settles O60: every move leaves a port presenting what its slot holds and counting as it keeps, and a command's
answer is a list of fixed length, four entries or notices at most, a slot list or the record of a lawful snapshot. -/
theorem stepKeepsPortInv : Obligations.StepKeepsPortInv := by
  unfold Obligations.StepKeepsPortInv
  exact fun s t h => ⟨(step_moves h).keeps move_keeps_portInv, fun snaps rings => step_keeps_responseInv h snaps rings⟩

end Sys2Proof.Machine
end

section
/-! PROOFS. Resets: how they start and end, and what holds after them. -/

namespace Sys2Proof.Machine

open Sys2Proof

/-- Settles O1: by the definition of a step. -/
theorem stepRunsFrontCommand : Obligations.StepRunsFrontCommand := by
  unfold Obligations.StepRunsFrontCommand
  intro i is s queue
  unfold step
  rw [queue]

/-! ### The state after reset (R18, R198) -/

theorem reset_queue (p : Port) : State.reset.queue p = Queue.reset := by simp [State.queue, State.reset]

theorem reset_chanLines (c : Chan) :
    State.reset.chanLines c =
      { a := Conditioner.reset, b := Conditioner.reset, z := Conditioner.reset, sampled := true } := by
  simp [State.chanLines, State.reset]

theorem reset_cap (n : CapIdx) : State.reset.cap n = { line := Conditioner.reset, sampled := true } := by
  simp [State.cap, State.reset]

theorem reset_port (p : Port) : State.reset.port p = PortIf.reset := by simp [State.port, State.reset]

theorem queueInv_reset : QueueInv State.reset := by
  intro p
  rw [reset_queue]
  decide

/-- Settles O51: each block is empty and at rest. -/
theorem invariantsHoldAtReset : Obligations.InvariantsHoldAtReset := by
  unfold Obligations.InvariantsHoldAtReset
  obtain ⟨engines, kinds⟩ := (channelsFit_iff State.reset).mp (channelsFit_of_reset rfl rfl rfl)
  have counts : CountInv State.reset :=
    countInv_of_zero (fun c => by rw [reset_chanLines]; exact ⟨rfl, rfl, rfl⟩) fun n => by rw [reset_cap]; rfl
  have resets : ResetInv State.reset := ⟨Nat.zero_le 16, fun _ h => nomatch h⟩
  have ports : PortInv State.reset := (portInv_iff _).mpr fun p => by
    rw [reset_port]
    exact PortIf.fits_of_not_receiving (by decide) rfl (Nat.zero_le 7)
  have responses : ResponseInv State.reset := fun p r held => by
    rw [reset_port] at held
    cases held
  exact ⟨queueInv_reset, lineInv_of_reset rfl rfl, claimInv_of_reset rfl, ringInv_of_reset rfl rfl,
    heldInv_of_reset rfl rfl, marksInv_of_reset rfl, windowInv_of_reset rfl, engines, kinds, snapInv_of_reset rfl,
    quotaInv_of_default rfl, resets, counts, ports, responses⟩

/-! ### The start of a reset (R2, R18, R197) -/

theorem startReset_port (phase : ResetPhase) (s : State) (q : Port) :
    (startReset phase s).port q = resetOtherPort (s.port q) := by simp [startReset, State.port]

theorem sdoLevel_of_not_receiving {pt : PortIf} (still : pt.recv ≠ .receiving) : sdoLevel pt = .low := by
  unfold sdoLevel sdoByte
  split
  · exact absurd ‹_› still
  · simp

theorem resetOtherPort_recv (pt : PortIf) : (resetOtherPort pt).recv ≠ .receiving := by
  unfold resetOtherPort
  dsimp only
  split
  · decide
  · assumption

/-- What stands of a reset's start whatever its phase. -/
theorem blocksReset_of_resetBlocks {s t : State} (blocks : SameExcept [.phase, .lines, .caps, .ports] (resetBlocks s) t) :
    BlocksReset t := by
  refine ⟨blocks .now (by decide), fun c => ⟨?_, ?_, ?_⟩, fun p c => ?_, fun r => ?_, blocks .device (by decide),
    fun i => ?_, fun p => ⟨?_, ?_, ?_, ?_⟩⟩
  · rw [blocks.engine_eq (by decide)]; simp [resetBlocks, State.engine, State.reset]
  · rw [blocks.ring_eq (by decide)]; simp [resetBlocks, State.ring, State.reset]
  · rw [blocks.chanSettings_eq (by decide)]; simp [resetBlocks, State.chanSettings, State.reset]
  · rw [blocks.view_eq (by decide)]; simp [resetBlocks, State.view, State.reset]
  · rw [blocks.claim_eq (by decide)]; simp [resetBlocks, State.claim, State.reset]
  · rw [blocks.slot_eq (by decide)]; simp [resetBlocks, State.slot, State.reset]
  · rw [blocks.heldCount_eq (by decide)]; simp [resetBlocks, State.heldCount, State.reset]
  · rw [blocks.queue_eq (by decide)]; simp [resetBlocks, State.queue, State.reset]
  · rw [blocks.wakeSet_eq (by decide)]; simp [resetBlocks, State.wakeSet, State.reset]
  · rw [blocks.intLevel_eq (by decide)]; simp [resetBlocks, State.intLevel, State.reset]

theorem startReset_started (phase : ResetPhase) (s : State) :
    (startReset phase s).phase = phase ∧ BlocksReset (startReset phase s) ∧
    (∀ q, ((startReset phase s).port q).slot = none ∧ ((startReset phase s).port q).collided = false ∧
      ((startReset phase s).port q).resetSeen = true ∧ ((startReset phase s).port q).frameBytes = [] ∧
      ((startReset phase s).port q).wholeBytes = 0 ∧ ((startReset phase s).port q).bits = [] ∧
      ((startReset phase s).port q).shifted = 0 ∧ sdoLevel ((startReset phase s).port q) = .low ∧
      ((startReset phase s).port q).recv =
        if (s.port q).recv = .receiving then .abandoned else (s.port q).recv) ∧
    (startReset phase s).lines = s.lines ∧ (startReset phase s).caps = s.caps ∧
    (startReset phase s).wires = s.wires ∧ (startReset phase s).resetLow = s.resetLow ∧
    (startReset phase s).resetWire = s.resetWire ∧ (startReset phase s).pending = s.pending ∧
    (startReset phase s).freeCount = s.freeCount := by
  have blocks : SameExcept [.phase, .lines, .caps, .ports] (resetBlocks s) (startReset phase s) := by
    intro f hf
    cases f <;> first | rfl | exact absurd (by decide) hf
  refine ⟨rfl, blocksReset_of_resetBlocks blocks, fun q => ?_, rfl, rfl, rfl, rfl, rfl, rfl, rfl⟩
  rw [startReset_port]
  exact ⟨rfl, rfl, rfl, rfl, rfl, rfl, rfl, sdoLevel_of_not_receiving (resetOtherPort_recv _), rfl⟩

/-- Settles O4: both rows are the start of a reset. -/
theorem resetStarts : Obligations.ResetStarts := by
  unfold Obligations.ResetStarts
  intro s
  refine ⟨⟨_, rfl, startReset_started _ s⟩, fun run few => ?_, fun run held => ⟨_, ?_, startReset_started _ s⟩⟩
  · exact congrArg _ (if_neg fun h => absurd h.2 (by simpa using few))
  · exact congrArg _ (if_pos ⟨run, held⟩)

/-! ### The end of a reset (R2, R18, R197) -/

theorem execPowerOnIntervalEnd_of_interval {s : State} {elapsed : Nat} (interval : s.phase = .powerOnInterval elapsed)
    (level : Level) (pins : PinLevels) :
    exec (.powerOnIntervalEnd level pins) s = .next
      (if elapsed < 4096 ∨ level ≠ s.resetSampled then s
      else match level with
        | .high => endReset pins s
        | .low => { s with phase := .pinHeld }) := by
  simp only [exec, execPowerOnIntervalEnd, interval] <;> cases level <;> rfl

theorem resetSampled_of_low {s : State} (low : 0 < s.resetLow) : s.resetSampled = .low := if_neg (by omega)

theorem resetSampled_of_high {s : State} (high : s.resetLow = 0) : s.resetSampled = .high := if_pos high

theorem powerOnIntervalEnd_ends (pins : PinLevels) {s : State} {elapsed : Nat}
    (interval : s.phase = .powerOnInterval elapsed) :
    (elapsed < 4096 → ∀ level, exec (.powerOnIntervalEnd level pins) s = .next s) ∧
    (4096 ≤ elapsed →
      (0 < s.resetLow →
        exec (.powerOnIntervalEnd .low pins) s = .next { s with phase := .pinHeld } ∧
        exec (.powerOnIntervalEnd .high pins) s = .next s) ∧
      (s.resetLow = 0 →
        exec (.powerOnIntervalEnd .high pins) s = .next (endReset pins s) ∧
        exec (.powerOnIntervalEnd .low pins) s = .next s)) := by
  refine ⟨fun early level => ?_, fun due => ⟨fun low => ⟨?_, ?_⟩, fun high => ⟨?_, ?_⟩⟩⟩
  · rw [execPowerOnIntervalEnd_of_interval interval, if_pos (.inl early)]
  · rw [execPowerOnIntervalEnd_of_interval interval, resetSampled_of_low low,
      if_neg (not_or.mpr ⟨by omega, not_not.mpr rfl⟩)]
  · rw [execPowerOnIntervalEnd_of_interval interval, resetSampled_of_low low, if_pos (.inr (by decide))]
  · rw [execPowerOnIntervalEnd_of_interval interval, resetSampled_of_high high,
      if_neg (not_or.mpr ⟨by omega, not_not.mpr rfl⟩)]
  · rw [execPowerOnIntervalEnd_of_interval interval, resetSampled_of_high high, if_pos (.inr (by decide))]

theorem endReset_port (pins : PinLevels) (s : State) (q : Port) :
    (endReset pins s).port q = portAtResetEnd (tget pins.select q) := by simp [endReset, State.port]

theorem portAtResetEnd_recv (select : Level) : (portAtResetEnd select).recv ≠ .receiving := by
  cases select <;> decide

/-- Settles O5: the rows by the phase and the level of RESET, then what `endReset` makes of each part. -/
theorem resetEnds : Obligations.ResetEnds := by
  unfold Obligations.ResetEnds
  intro pins s
  refine ⟨fun elapsed interval => powerOnIntervalEnd_ends pins interval, fun held => ⟨fun high => ?_, fun low => ?_⟩,
    rfl, rfl, fun c => endReset_chanLines pins s c, fun n => endReset_cap pins s n, fun q => ?_,
    endReset_only pins s⟩
  · exact congrArg _ (if_pos ⟨held, resetSampled_of_high high⟩)
  · exact congrArg _ (if_neg fun h => absurd (h.2.symm.trans (resetSampled_of_low low)) (by decide))
  · rw [endReset_port]
    exact ⟨rfl, rfl, rfl, rfl, rfl, rfl, rfl, sdoLevel_of_not_receiving (portAtResetEnd_recv _), rfl⟩

/-! ### During a reset (R197) -/

theorem atFrameEnd_of_reset {s : State} (still : ¬ s.running) (p : Port) (bytes : List Byte) (work : State → State) :
    atFrameEnd p bytes work s = s := if_neg fun h => still h.1

/-- Settles O6: each row asks for a running device; the rows that end a frame do so at the frame's end. -/
theorem nothingIsTakenInReset : Obligations.NothingIsTakenInReset := by
  unfold Obligations.NothingIsTakenInReset
  intro i s still wf notOn notEnd notRelease
  have frame {p : Port} {bytes : List Byte} (ends : frameOf i = some (p, bytes)) : exec i s = .next s := by
    obtain ⟨work, h⟩ := exec_frameRow s wf ends
    rw [h, atFrameEnd_of_reset still]
  cases i with
  | powerOn => exact absurd rfl notOn
  | powerOnIntervalEnd level pins => exact absurd rfl (notEnd level pins)
  | resetPinRelease pins => exact absurd rfl (notRelease pins)
  | resetPinAssert | lineSample | filteredEdge | overrangeExpiry | leaseExpiry | armLimitExpiry
  | timeTargetReached | frameStart | abandonedFrameEnd => exact congrArg _ (if_neg fun h => still h.1)
  | _ => exact frame rfl

end Sys2Proof.Machine
end

section
/-! PROOFS. The passing of a tick: what a step on an empty queue queues, and what the next tick changes. -/

namespace Sys2Proof.Machine

open Sys2Proof

/-! ### Clock edges (R179, R206) -/

/-- One bit more shifted into a byte. -/
theorem getLsbD_shiftIn (b : Byte) (l : Level) (i : Nat) (small : i < 8) :
    ((b <<< 1) ||| Level.code l).getLsbD i = if i = 0 then decide (l = .high) else b.getLsbD (i - 1) := by
  have code : (Level.code l).getLsbD i = decide (i = 0 ∧ l = .high) := by
    cases l
    · simp [Level.code]
    · cases i <;> simp [Level.code]
  rw [BitVec.getLsbD_or, BitVec.getLsbD_shiftLeft, code]
  cases i <;> simp_all

/-- The bits received stand in the byte from its least significant bit on, the latest first. -/
theorem byteOfBits_getLsbD_reverse (bits : List Level) {i : Nat} (small : i < 8) :
    (byteOfBits bits).getLsbD i = decide (bits.reverse[i]? = some Level.high) := by
  induction bits using List.reverseRecOn generalizing i with
  | nil => simp [byteOfBits]
  | append_singleton bits l ih =>
    have shifted : byteOfBits (bits ++ [l]) = (byteOfBits bits <<< 1) ||| Level.code l := by
      simp [byteOfBits, List.foldl_append]
    rw [shifted, getLsbD_shiftIn _ _ _ small, List.reverse_append]
    cases i with
    | zero => simp
    | succ i =>
      rw [if_neg (Nat.succ_ne_zero i), Nat.add_sub_cancel, ih (by omega)]
      rfl

/-- Eight bits make a byte, most significant first (R179). -/
theorem byteOfBits_getLsbD {bits : List Level} (eight : bits.length = 8) {k : Nat} (small : k < 8) :
    (byteOfBits bits).getLsbD (7 - k) = decide (bits[k]? = some Level.high) := by
  rw [byteOfBits_getLsbD_reverse bits (by omega), List.getElem?_reverse (by omega), eight]
  congr 3
  omega

theorem takeEdge_of_not_receiving {pt : PortIf} (still : pt.recv ≠ .receiving) (e : ClockEdge) : takeEdge e pt = pt := by
  rcases takeEdge_cases e pt with ⟨-, h⟩ | ⟨recv, -⟩ | ⟨recv, -⟩
  · exact h
  · exact absurd recv still
  · exact absurd recv still

theorem takeEdge_fall {pt : PortIf} (recv : pt.recv = .receiving) :
    takeEdge .fall pt = { pt with shifted := pt.shifted + 1 } := by
  unfold takeEdge shiftOut
  rw [recv]

theorem takeEdge_rise {pt : PortIf} (recv : pt.recv = .receiving) (v : Level) :
    (pt.bits.length < 7 → takeEdge (.rise v) pt = { pt with bits := pt.bits ++ [v] }) ∧
    (pt.bits.length = 7 →
      ∃ b : Byte, (∀ k, k < 8 → b.getLsbD (7 - k) = decide ((pt.bits ++ [v])[k]? = some Level.high)) ∧
        takeEdge (.rise v) pt = { pt with
          bits := []
          frameBytes := if pt.frameBytes.length < 28 then pt.frameBytes ++ [b] else pt.frameBytes
          wholeBytes := satInc pt.wholeBytes }) := by
  rcases receiveBit_cases v pt with ⟨still, -⟩ | ⟨-, few, h⟩ | ⟨-, full, h⟩
  · exact absurd recv still
  · exact ⟨fun _ => h, fun seven => absurd seven (by omega)⟩
  · refine ⟨fun few => absurd few (by omega), fun seven => ⟨byteOfBits (pt.bits ++ [v]), fun k small => ?_, h⟩⟩
    exact byteOfBits_getLsbD (by simp [seven]) small

/-! ### What is owed (R2, R5, R6) -/

theorem owed_of_running {s : State} (run : s.running) :
    s.owed = (if 16 ≤ s.resetLow then [Instr.resetPinAssert] else []) ++ s.samplesOwed.map s.sampleEvent ++
      s.expiriesDue := by
  unfold State.owed
  rw [show s.phase = .running from run]

theorem owed_of_interval {s : State} {elapsed : Nat} (interval : s.phase = .powerOnInterval elapsed) :
    s.owed = if 4096 ≤ elapsed then [.powerOnIntervalEnd (if s.resetLow = 0 then .high else .low) s.heldPins] else [] := by
  unfold State.owed
  rw [interval]
  dsimp only
  by_cases due : 4096 ≤ elapsed
  · rw [if_pos due, if_neg (Nat.not_lt.mpr due)]
    rfl
  · rw [if_neg due, if_pos (Nat.not_le.mp due)]

theorem owed_of_held {s : State} (held : s.phase = .pinHeld) :
    s.owed = if s.resetLow = 0 then [.resetPinRelease s.heldPins] else [] := by
  unfold State.owed State.resetSampled
  rw [held]
  dsimp only
  by_cases high : s.resetLow = 0
  · rw [if_pos high, if_pos high, if_pos rfl]
  · rw [if_neg high, if_neg high, if_neg (by decide)]

theorem enqueue_of_empty {s : State} (queue : s.pending = []) (es : List Instr) :
    ∃ l k, l.Perm es ∧ s.enqueue es = { s with pending := l, freeCount := k } := by
  refine ⟨(freeOrder es.length es s.freeCount).1, (freeOrder es.length es s.freeCount).2, freeOrder_perm _ _ _, ?_⟩
  unfold State.enqueue
  rw [queue]
  rfl

/-! ### The next tick (R1, R2, R6, R179) -/

theorem resetLevel_of_wire {s : State} {v : Level} {later : List Level} (wire : s.resetWire = v :: later) :
    s.resetLevel = v := by
  unfold State.resetLevel
  rw [wire]
  rfl

theorem resetLevel_of_quiet {s : State} (quiet : s.resetWire = []) : s.resetLevel = .low ↔ 0 < s.resetLow := by
  unfold State.resetLevel State.resetSampled
  rw [quiet, List.headD_nil]
  by_cases high : s.resetLow = 0
  · simp [high]
  · simp [high]
    omega

theorem advance_wires (s : State) (p : Port) : tget (advance s).wires p = (tget s.wires p).tail := by
  unfold advance
  simp

theorem advance_resetWire (s : State) : (advance s).resetWire = s.resetWire.tail := by
  unfold advance
  split <;> rfl

theorem advance_phase_of_interval {s : State} {elapsed : Nat} (interval : s.phase = .powerOnInterval elapsed) :
    (advance s).phase = .powerOnInterval (elapsed + 1) := by
  unfold advance
  rw [interval]
  rfl

theorem advance_phase_of_held {s : State} (held : s.phase = .pinHeld) : (advance s).phase = .pinHeld := by
  unfold advance
  rw [held]
  exact held

theorem advance_now {s : State} (run : s.running) : (advance s).now = s.now + 1 := by
  unfold advance
  rw [show s.phase = .running from run]
  rfl

theorem advance_chanLines {s : State} (run : s.running) (c : Chan) :
    (advance s).chanLines c = { s.chanLines c with sampled := false } := by
  unfold advance
  rw [show s.phase = .running from run]
  simp [advanceRunning, sampleReset, State.chanLines]

theorem advance_cap {s : State} (run : s.running) (n : CapIdx) :
    (advance s).cap n = { s.cap n with sampled := false } := by
  unfold advance
  rw [show s.phase = .running from run]
  simp [advanceRunning, sampleReset, State.cap]

/-- Settles O2: a step on an empty queue queues what is owed or begins the next tick, field by field. -/
theorem idleStepPassesTime : Obligations.IdleStepPassesTime := by
  unfold Obligations.IdleStepPassesTime
  refine ⟨fun s queue => ⟨owed_of_running, fun _ => owed_of_interval, owed_of_held, fun owed => ?_, fun paid => ?_⟩,
    fun pt => ⟨takeEdge_of_not_receiving, fun recv => ⟨takeEdge_fall recv, takeEdge_rise recv⟩⟩⟩
  · rcases step_of_empty_queue queue with ⟨-, step⟩ | ⟨paid, -⟩
    · obtain ⟨l, k, perm, enqueued⟩ := enqueue_of_empty queue s.owed
      exact ⟨l, k, perm, by rw [step, enqueued]⟩
    · exact absurd paid owed
  · rcases step_of_empty_queue queue with ⟨owed, -⟩ | ⟨-, step⟩
    · exact absurd paid owed
    · refine ⟨advance s, s.resetLevel, step, fun v later => resetLevel_of_wire, resetLevel_of_quiet, fun high => ?_,
        fun low => ?_, advance_resetWire s, advance_wires s, fun _ => advance_phase_of_interval,
        advance_phase_of_held, advance_reset_only, fun run => ⟨advance_now run, advance_chanLines run,
        advance_cap run, fun p => advance_port run p, ?_⟩⟩
      · rw [advance_resetLow, high]
        rfl
      · rw [advance_resetLow, low]
        rfl
      · exact (advance_running_only run).mono (by decide)

/-! ### The events of the queue (R5, R6) -/

/-- The next queue of an idle step holds exactly what is owed, and the timebase stays where something is. -/
theorem idleStep_pending {s : State} (queue : s.pending = []) (run : s.running) :
    ∃ t, step s = .next t ∧ (t.pending ≠ [] → t.now = s.now) ∧ (t.pending = [] → t.now = s.now + 1) ∧
      ∀ i, i ∈ t.pending ↔ i ∈ s.owed := by
  rcases step_of_empty_queue queue with ⟨owed, step⟩ | ⟨paid, step⟩
  · obtain ⟨l, k, perm, enqueued⟩ := enqueue_of_empty queue s.owed
    refine ⟨_, step, fun _ => ?_, fun none => ?_, fun i => ?_⟩
    · rw [enqueued]
    · rw [enqueued] at none
      exact absurd (show l = [] from none ▸ rfl) (fun empty => owed (by rw [empty] at perm; exact perm.nil_eq.symm))
    · rw [enqueued]
      exact perm.mem_iff
  · have pending : (advance s).pending = [] :=
      (show (advance s).pending = s.pending from advance_only s .pending (by decide)).trans queue
    refine ⟨_, step, fun some => absurd pending some, fun _ => advance_now run, fun i => ?_⟩
    rw [pending, paid]

theorem sampleEvent_ne {i : Instr} (edge : ∀ u, i ≠ .filteredEdge u) (sample : ∀ u, i ≠ .lineSample u) (s : State)
    (u : Sample) : i ≠ s.sampleEvent u := by
  unfold State.sampleEvent
  split
  · exact edge u
  · exact sample u

theorem overrangeDue_iff (m : ModeState) (now : Tick) :
    overrangeDue m = some now ↔ ∃ start, (m = .timing start ∨ m = .inPulse start) ∧ now = start + 4294967295 := by
  unfold overrangeDue overrangeTicks
  split
  · simp [eq_comm]
  · simp [eq_comm]
  · rename_i timing pulse
    constructor
    · intro h; cases h
    · rintro ⟨start, h | h, -⟩
      · exact absurd h (timing start)
      · exact absurd h (pulse start)

theorem armLimitDue_iff (s : State) (i : SlotIdx) :
    s.armLimitDue i = some s.now ↔
      ∃ sn stale, (s.slot i).body = some sn ∧ sn.phase = .armed stale (some s.now) := by
  rcases Slot.armed_or_not (s.slot i) with ⟨sn, stale, due, body, armed⟩ | none
  · have waits : s.armLimitDue i = due := by
      unfold State.armLimitDue
      cases sn
      cases armed
      rw [body]
    rw [waits, body]
    constructor
    · rintro rfl
      exact ⟨sn, stale, rfl, armed⟩
    · rintro ⟨sn', stale', same, armed'⟩
      cases same
      cases armed.symm.trans armed'
      rfl
  · constructor
    · intro waits
      unfold State.armLimitDue at waits
      split at waits
      · exact absurd rfl (none _ ‹(s.slot i).body = some _› _ _)
      · cases waits
    · rintro ⟨sn, stale, body, armed⟩
      exact absurd armed (none sn body stale _)

theorem armedSnap_iff (s : State) (i : SlotIdx) (sn : Snapshot) :
    s.armedSnap i = some sn ↔ (s.slot i).body = some sn ∧ ∃ stale due, sn.phase = .armed stale due := by
  rcases Slot.armed_or_not (s.slot i) with ⟨sn', stale, due, body, armed⟩ | none
  · rw [armedSnap_of_armed body armed, body]
    constructor
    · intro same
      cases same
      exact ⟨rfl, stale, due, armed⟩
    · exact fun h => h.1
  · rw [armedSnap_of_not_armed none]
    constructor
    · intro h; cases h
    · rintro ⟨body, stale, due, armed⟩
      exact absurd armed (none sn body stale due)

/-- The events other than samples that a tick of a running device owes. -/
theorem mem_owed_of_other {s : State} (run : s.running) {i : Instr} (edge : ∀ u, i ≠ .filteredEdge u)
    (sample : ∀ u, i ≠ .lineSample u) :
    i ∈ s.owed ↔
      (16 ≤ s.resetLow ∧ i = .resetPinAssert) ∨
      (∃ c, overrangeDue (s.engine c).modeState = some s.now ∧ i = .overrangeExpiry c) ∨
      (∃ r, (s.claim r).holder.isSome = true ∧ (s.claim r).leaseDue = some s.now ∧ i = .leaseExpiry r) ∨
      (∃ j, s.armLimitDue j = some s.now ∧ i = .armLimitExpiry j) ∨
      (∃ j sn, s.armedSnap j = some sn ∧ sn.source = .time s.now) ∧ i = .timeTargetReached s.now := by
  rw [mem_owed run]
  simp only [sampleEvent_ne edge sample, and_false, exists_false, false_or]

/-! ### The samples owed (R6, R8) -/

theorem mem_owed_of_sample {s : State} (run : s.running) (u : Sample) :
    (.filteredEdge u ∈ s.owed ↔ u ∈ s.samplesOwed ∧ s.edgeDue u = true) ∧
    (.lineSample u ∈ s.owed ↔ u ∈ s.samplesOwed ∧ s.edgeDue u = false) := by
  have expiry (i : Instr) (held : i ∈ s.expiriesDue) : (∀ u, i ≠ .filteredEdge u) ∧ ∀ u, i ≠ .lineSample u := by
    simp only [State.expiriesDue, List.mem_append, List.mem_map, List.mem_ite_nil_right, List.mem_singleton] at held
    rcases held with ((⟨_, -, rfl⟩ | ⟨_, -, rfl⟩) | ⟨_, -, rfl⟩) | ⟨-, rfl⟩ <;>
      exact ⟨(fun _ h => by cases h), (fun _ h => by cases h)⟩
  have edge (w : Sample) : s.sampleEvent w = .filteredEdge u ↔ w = u ∧ s.edgeDue u = true := by
    unfold State.sampleEvent
    split
    · rename_i due
      constructor
      · intro h; cases h; exact ⟨rfl, due⟩
      · rintro ⟨rfl, -⟩; rfl
    · rename_i due
      constructor
      · intro h; cases h
      · rintro ⟨rfl, h⟩; exact absurd h due
  have sample (w : Sample) : s.sampleEvent w = .lineSample u ↔ w = u ∧ s.edgeDue u = false := by
    unfold State.sampleEvent
    split
    · rename_i due
      constructor
      · intro h; cases h
      · rintro ⟨rfl, h⟩; rw [due] at h; cases h
    · rename_i due
      constructor
      · intro h; cases h; exact ⟨rfl, Bool.eq_false_of_not_eq_true due⟩
      · rintro ⟨rfl, -⟩; rfl
  rw [owed_of_running run]
  simp only [List.mem_append, List.mem_ite_nil_right, List.mem_singleton, reduceCtorEq, and_false, false_or,
    List.mem_map, edge, sample]
  constructor
  · constructor
    · rintro (⟨w, held, rfl, due⟩ | held)
      · exact ⟨held, due⟩
      · exact absurd rfl ((expiry _ held).1 u)
    · exact fun ⟨held, due⟩ => .inl ⟨u, held, rfl, due⟩
  · constructor
    · rintro (⟨w, held, rfl, due⟩ | held)
      · exact ⟨held, due⟩
      · exact absurd rfl ((expiry _ held).2 u)
    · exact fun ⟨held, due⟩ => .inl ⟨u, held, rfl, due⟩

theorem sample_mem_owed {s : State} (run : s.running) (u : Sample) :
    .filteredEdge u ∈ s.owed ∨ .lineSample u ∈ s.owed ↔ u ∈ s.samplesOwed := by
  obtain ⟨edge, sample⟩ := mem_owed_of_sample run u
  rw [edge, sample, ← and_or_left]
  exact and_iff_left (by cases s.edgeDue u <;> simp)

theorem Conditioner.moving_iff (l : Conditioner) : l.moving = true ↔ l.raw ≠ l.filtered ∨ l.count ≠ 0 := by
  simp [Conditioner.moving]

theorem chan_mem_samplesOwed (s : State) (c : Chan) (v : Levels) :
    .chan c v ∈ s.samplesOwed ↔ (s.chanLines c).sampled = false ∧
      v = ⟨(s.chanLines c).a.raw, (s.chanLines c).b.raw, (s.chanLines c).z.raw⟩ ∧
      ∃ l ∈ [(s.chanLines c).a, (s.chanLines c).b, (s.chanLines c).z], l.raw ≠ l.filtered ∨ l.count ≠ 0 := by
  simp only [State.samplesOwed, List.mem_append, List.mem_map, List.mem_filter, List.mem_finRange, true_and,
    reduceCtorEq, and_false, exists_false, or_false, Bool.and_eq_true, Bool.not_eq_true', Bool.or_eq_true,
    Conditioner.moving_iff, Sample.chan.injEq, List.mem_cons, List.not_mem_nil, exists_eq_or_imp, exists_eq_left]
  constructor
  · rintro ⟨d, ⟨unsampled, moves⟩, rfl, rfl⟩
    exact ⟨unsampled, rfl, or_assoc.mp moves⟩
  · rintro ⟨unsampled, rfl, moves⟩
    exact ⟨c, ⟨unsampled, or_assoc.mpr moves⟩, rfl, rfl⟩

theorem cap_mem_samplesOwed (s : State) (n : CapIdx) (v : Level) :
    .cap n v ∈ s.samplesOwed ↔ (s.cap n).sampled = false ∧ v = (s.cap n).line.raw ∧
      ((s.cap n).line.raw ≠ (s.cap n).line.filtered ∨ (s.cap n).line.count ≠ 0) := by
  simp only [State.samplesOwed, List.mem_append, List.mem_map, List.mem_filter, List.mem_finRange, true_and,
    reduceCtorEq, and_false, exists_false, false_or, Bool.and_eq_true, Bool.not_eq_true', Conditioner.moving_iff,
    Sample.cap.injEq]
  constructor
  · rintro ⟨m, ⟨unsampled, moves⟩, rfl, rfl⟩
    exact ⟨unsampled, rfl, moves⟩
  · rintro ⟨unsampled, rfl, moves⟩
    exact ⟨n, ⟨unsampled, moves⟩, rfl, rfl⟩

/-- A sample falls an edge exactly where the level differs and the stable time is full with it (R8, R9). -/
theorem sampleLine_edge_iff (L : Nat) (raw : Level) (l : Conditioner) :
    (sampleLine L raw l).edge = true ↔ raw ≠ l.filtered ∧ L ≤ l.count + 1 := by
  unfold sampleLine
  split
  · rename_i off
    simp [off]
  · split
    · rename_i same
      simp [same]
    · rename_i apart
      split
      · rename_i short
        simp [short]
      · rename_i full
        simp [apart, Nat.not_lt.mp full]

theorem edgeDue_held_chan (s : State) (c : Chan) :
    s.edgeDue (.chan c ⟨(s.chanLines c).a.raw, (s.chanLines c).b.raw, (s.chanLines c).z.raw⟩) = true ↔
      ∃ l ∈ [(s.chanLines c).a, (s.chanLines c).b, (s.chanLines c).z],
        l.raw ≠ l.filtered ∧ filterLength (s.chanSettings c).filterStep ≤ l.count + 1 := by
  simp only [State.edgeDue, sampleChanLines, Bool.or_eq_true, sampleLine_edge_iff, List.mem_cons, List.not_mem_nil,
    or_false, exists_eq_or_imp, exists_eq_left, or_assoc]

theorem edgeDue_cap (s : State) (n : CapIdx) (v : Level) :
    s.edgeDue (.cap n v) = true ↔
      v ≠ (s.cap n).line.filtered ∧ filterLength s.device.lineFilterStep ≤ (s.cap n).line.count + 1 :=
  sampleLine_edge_iff _ _ _

/-- Settles O3: the queue of an idle step holds exactly what is owed, kind by kind. -/
theorem dueWaitsAreQueued : Obligations.DueWaitsAreQueued := by
  unfold Obligations.DueWaitsAreQueued
  intro s queue run
  obtain ⟨t, step, stays, passes, mem⟩ := idleStep_pending queue run
  refine ⟨t, step, stays, passes, ?_⟩
  simp only [mem, sample_mem_owed run]
  simp only [(mem_owed_of_sample run _).1, (mem_owed_of_sample run _).2, chan_mem_samplesOwed, cap_mem_samplesOwed]
  refine ⟨?_, fun r => ?_, fun c => ?_, fun i => ?_, fun target => ?_,
    fun c v => ⟨trivial, ?_, ?_⟩, fun n v => ⟨trivial, ?_, ?_⟩⟩
  · rw [mem_owed_of_other run (fun _ h => by cases h) (fun _ h => by cases h)]
    simp
  · rw [mem_owed_of_other run (fun _ h => by cases h) (fun _ h => by cases h)]
    simp
  · rw [mem_owed_of_other run (fun _ h => by cases h) (fun _ h => by cases h), ← overrangeDue_iff]
    simp
  · rw [mem_owed_of_other run (fun _ h => by cases h) (fun _ h => by cases h), ← armLimitDue_iff]
    simp
  · rw [mem_owed_of_other run (fun _ h => by cases h) (fun _ h => by cases h)]
    simp only [armedSnap_iff]
    constructor
    · rintro (⟨-, h⟩ | ⟨_, -, h⟩ | ⟨_, -, -, h⟩ | ⟨_, -, h⟩ | ⟨⟨i, sn, ⟨body, stale, due, armed⟩, source⟩, h⟩)
      · cases h
      · cases h
      · cases h
      · cases h
      · cases h
        exact ⟨rfl, i, sn, stale, due, body, armed, source⟩
    · rintro ⟨rfl, i, sn, stale, due, body, armed, source⟩
      exact .inr (.inr (.inr (.inr ⟨⟨i, sn, ⟨body, stale, due, armed⟩, source⟩, rfl⟩)))
  · rintro ⟨⟨-, rfl, -⟩, due⟩
    exact (edgeDue_held_chan s c).mp due
  · rintro ⟨⟨-, rfl, -⟩, undue⟩ l held apart
    by_contra full
    have due := (edgeDue_held_chan s c).mpr ⟨l, held, apart, Nat.not_lt.mp full⟩
    rw [undue] at due
    cases due
  · rintro ⟨⟨-, rfl, -⟩, due⟩
    exact (edgeDue_cap s n _).mp due
  · rintro ⟨⟨-, rfl, -⟩, undue⟩ apart
    by_contra full
    have due := (edgeDue_cap s n _).mpr ⟨apart, Nat.not_lt.mp full⟩
    rw [undue] at due
    cases due

end Sys2Proof.Machine
end

section
/-! PROOFS. Samples and timed waits: what they make of the channels, the capture lines and the snapshots. -/

namespace Sys2Proof.Machine

open Sys2Proof

/-! ### Captures (R142 to R146) -/

/-- An entry describes its channel as the table of R144 gives its fields. -/
theorem captureEntry_describes (s : State) (before : Option (Chan × Engine)) (stale : List Chan) (c : Chan) :
    Describes (captureEntry s before stale c) c (s.chanSettings c).mode (captureEngine s before c) (s.chanLines c)
      (s.ring c) (decide (c ∈ stale)) where
  channel := rfl
  mode_eq := rfl
  generation := rfl
  levels := rfl
  faultTally := rfl
  staleConfig := rfl
  off off := by simp only [captureEntry, off]
  quad quad := by simp [captureEntry, quad]
  tally tally := by simp only [captureEntry, tally]
  measured timed := by
    have marks : ((s.chanSettings c).mode == .span || (s.chanSettings c).mode == .width) = true := by
      simpa using timed
    cases latest : (s.ring c).entries.getLast? <;>
      rcases timed with mode | mode <;> simp [captureEntry, mode, latest]
  unreferenced other := by simp [captureEntry, other]
  unmeasured span width := by simp [captureEntry, span, width]

theorem entriesOf_captureEntry {s t : State} (before : Option (Chan × Engine)) (stale cs : List Chan)
    (settings : ∀ c, t.chanSettings c = s.chanSettings c) (lines : ∀ c, t.chanLines c = s.chanLines c)
    (rings : ∀ c, t.ring c = s.ring c) :
    EntriesOf (cs.map (captureEntry s before stale)) cs stale (captureEngine s before) t := by
  unfold EntriesOf
  rw [List.forall₂_map_right_iff, List.forall₂_same]
  intro c _
  rw [settings, lines, rings]
  exact captureEntry_describes s before stale c

/-- A capture event captures exactly what it serves; `s` may be an earlier state with the same slots (R142, R143). -/
theorem captureEvent_captures (cause : CaptureCause) {s u : State} (slots : ∀ i, u.slot i = s.slot i)
    (now : u.now = s.now) :
    Captures (serves cause) (captureEngine u cause.before) s (captureEvent cause u) := by
  have only := captureEvent_only cause u
  intro i
  have slot := captureEvent_slot cause i u
  rw [slots, now] at slot
  split
  · rename_i sn body
    split
    · rename_i stale due armed
      rw [Slot.onward_of_armed body armed] at slot
      split
      · rename_i served
        refine ⟨sn.channels.map (captureEntry u cause.before stale), ?_,
          entriesOf_captureEntry cause.before stale sn.channels (only.chanSettings_eq (by decide))
            (only.chanLines_eq (by decide)) (only.ring_eq (by decide))⟩
        rw [slot, servedPhase, if_pos served]
      · rename_i unserved
        rw [slot, servedPhase, if_neg unserved, ← armed, ← body]
    · rename_i other
      rw [slot, Slot.onward_of_not_armed]
      intro sn' body' stale due armed
      rw [body] at body'
      cases body'
      exact other stale due armed
  · rename_i none
    rw [slot, Slot.onward_of_not_armed]
    intro sn body
    rw [none] at body
    cases body

/-! ### The sample rows (R6, R8, R16) -/

theorem exec_lineSample {u : Sample} {s : State} (run : s.running) (fresh : s.sampledNow u = false) :
    exec (.lineSample u) s = .next (takeSample u s) := congrArg _ (if_pos ⟨run, fresh⟩)

theorem exec_lineSample_again {u : Sample} {s : State} (sampled : s.sampledNow u = true) :
    exec (.lineSample u) s = .next s :=
  congrArg _ (if_neg fun h => absurd (sampled.symm.trans h.2) (by decide))

theorem exec_filteredEdge {u : Sample} {s : State} (run : s.running) (fresh : s.sampledNow u = false)
    (due : s.edgeDue u = true) : exec (.filteredEdge u) s = .next (takeSample u s) :=
  congrArg _ (if_pos ⟨run, fresh, due⟩)

theorem exec_filteredEdge_again {u : Sample} {s : State} (sampled : s.sampledNow u = true) :
    exec (.filteredEdge u) s = .next s :=
  congrArg _ (if_neg fun h => absurd (sampled.symm.trans h.2.1) (by decide))

theorem exec_filteredEdge_undue {u : Sample} {s : State} (undue : s.edgeDue u = false) :
    exec (.filteredEdge u) s = .next s :=
  congrArg _ (if_neg fun h => absurd (undue.symm.trans h.2.2) (by decide))

theorem takeSample_chanLines_self (c : Chan) (v : Levels) (s : State) :
    (takeSample (.chan c v) s).chanLines c = s.sampledLines c v := by
  rw [takeSample_chanLines, if_pos rfl]
  rfl

theorem takeSample_cap_self (n : CapIdx) (v : Level) (s : State) :
    (takeSample (.cap n v) s).cap n =
      { line := (sampleLine (filterLength s.device.lineFilterStep) v (s.cap n).line).line, sampled := true } := by
  rw [takeSample_cap, if_pos rfl]

/-- Settles O7: the conditioners of the unit step by the table, and a second sample at the tick is none. -/
theorem sampleStepsConditioners : Obligations.SampleStepsConditioners := by
  unfold Obligations.SampleStepsConditioners
  intro s run
  refine ⟨fun c v fresh => ⟨_, exec_lineSample run fresh, ?_⟩, fun n v fresh => ⟨_, exec_lineSample run fresh, ?_⟩,
    fun c v sampled => ⟨exec_lineSample_again sampled, exec_filteredEdge_again sampled⟩,
    fun n v sampled => ⟨exec_lineSample_again sampled, exec_filteredEdge_again sampled⟩⟩
  · rw [takeSample_chanLines_self]
    refine ⟨rfl, sampleLine_conditioned _ _ _, sampleLine_conditioned _ _ _, sampleLine_conditioned _ _ _,
      fun d apart => ?_, takeSample_chan_only c v s⟩
    obtain ⟨engine, ring, -⟩ := takeSample_elsewhere c v s d apart
    exact ⟨by rw [takeSample_chanLines, if_neg apart.symm], engine, ring⟩
  · rw [takeSample_cap_self]
    exact ⟨rfl, sampleLine_conditioned _ _ _, fun m apart => by rw [takeSample_cap, if_neg apart.symm],
      takeSample_cap_only n v s⟩

/-- An edge falls in a sample exactly where it is due (R8, R9). -/
theorem edgeIn_takeSample (u : Sample) (s : State) : EdgeIn u s (takeSample u s) ↔ s.edgeDue u = true := by
  cases u with
  | chan c v =>
    unfold EdgeIn
    dsimp only
    rw [takeSample_chanLines_self, edgeDue_chan, Bool.or_eq_true, Bool.or_eq_true, reportOf_edgeA, reportOf_edgeB,
      reportOf_edgeZ, or_assoc]
  | cap n v =>
    unfold EdgeIn
    dsimp only
    rw [takeSample_cap_self]
    exact (sampleLine_edge _ _ _).symm

/-- Settles O8: the row of an edge is the sample where the edge falls, and nothing where none does. -/
theorem filteredEdgeIsItsSample : Obligations.FilteredEdgeIsItsSample := by
  unfold Obligations.FilteredEdgeIsItsSample
  intro u s run fresh
  refine ⟨_, exec_lineSample run fresh, fun due => ⟨exec_filteredEdge run fresh due, (edgeIn_takeSample u s).mpr due⟩,
    fun undue => ⟨exec_filteredEdge_undue undue, fun edge => ?_⟩⟩
  exact absurd (undue.symm.trans ((edgeIn_takeSample u s).mp edge)) (by decide)

/-! ### Faults (R12, R13) -/

theorem usedGlitches_off {r : ChanSettings} (off : r.mode = .off) (v : Levels) (l : ChanLines) :
    usedGlitches r v l = 0 := by simp [usedGlitches, off]

theorem usedGlitches_tally {r : ChanSettings} (tally : r.mode = .tally) (v : Levels) (l : ChanLines) :
    usedGlitches r v l = (rejects (filterLength r.filterStep) v.a l.a).toNat +
      (rejects (filterLength r.filterStep) v.b l.b && r.gate != .none).toNat := by
  unfold usedGlitches
  by_cases gate : r.gate = .none <;> simp [tally, gate, Bool.toNat, cond_eq_ite]

theorem usedGlitches_measured {r : ChanSettings} (measured : r.mode = .span ∨ r.mode = .width) (v : Levels)
    (l : ChanLines) : usedGlitches r v l = (rejects (filterLength r.filterStep) v.a l.a).toNat := by
  unfold usedGlitches
  rcases measured with mode | mode <;> simp [mode, Bool.toNat, cond_eq_ite]

/-- An effect that leaves the ring writes no ring. -/
theorem ChannelEffect.only_of_ring {c : Chan} {s t : State} {e : Engine} {A : Port → Account}
    (h : ChannelEffect c s t e (s.ring c) A) : SameExcept [.engines, .views, .queues, .intLine] s t := by
  refine h.only.without .rings (rings_eq fun d => ?_) (by decide)
  by_cases here : d = c
  · subst here; exact h.ring
  · exact (h.others d here).2.1

/-- A SPAN sample (R49). -/
theorem reportSpan_atReport {c : Chan} {v : Levels} {s : State} (span : (s.chanSettings c).mode = .span)
    {next : ModeState × Option (EntryKind × Tick)}
    (reported : next = spanReported (s.chanSettings c) (s.sampledLines c v) s.now (s.reportOf c v).edgeA
      (s.engine c).modeState) :
    ChannelEffect c (s.atReport c v) (reportSpan c (s.reportOf c v) (s.atReport c v))
      { (s.engine c).faulted (usedGlitches (s.chanSettings c) v (s.chanLines c)) with modeState := next.1 }
      ((s.ring c).measured s.now next.2)
      (fun p => Account.measured c s.now (s.ring c) next.2
        ((Account.fault c s.now)^[usedGlitches (s.chanSettings c) v (s.chanLines c)] (s.account p c))) := by
  have effect := ChannelEffect.reportSpan (c := c) (s := s.atReport c v) (s.reportOf c v)
  rw [atReport_chanLines] at effect
  rw [usedGlitches_measured (.inl span), ← reportOf_glitchA, reported]
  exact effect

/-- A WIDTH sample (R53). -/
theorem reportWidth_atReport {c : Chan} {v : Levels} {s : State} (width : (s.chanSettings c).mode = .width)
    {next : ModeState × Option (EntryKind × Tick)}
    (reported : next = widthReported (s.chanSettings c) (s.sampledLines c v) s.now (s.reportOf c v).edgeA
      (s.engine c).modeState) :
    ChannelEffect c (s.atReport c v) (reportWidth c (s.reportOf c v) (s.atReport c v))
      { (s.engine c).faulted (usedGlitches (s.chanSettings c) v (s.chanLines c)) with modeState := next.1 }
      ((s.ring c).measured s.now next.2)
      (fun p => Account.measured c s.now (s.ring c) next.2
        ((Account.fault c s.now)^[usedGlitches (s.chanSettings c) v (s.chanLines c)] (s.account p c))) := by
  have effect := ChannelEffect.reportWidth (c := c) (s := s.atReport c v) (s.reportOf c v)
  rw [atReport_chanLines] at effect
  rw [usedGlitches_measured (.inr width), ← reportOf_glitchA, reported]
  exact effect

/-- A report without an edge: the rejected glitches of the used lines, and nothing else (R12, R13). -/
theorem takeReport_quiet {c : Chan} {v : Levels} {s : State} (quiet : s.edgeDue (.chan c v) = false) :
    ChannelEffect c (s.atReport c v) (takeReport c (s.reportOf c v) (s.atReport c v))
      ((s.engine c).faulted (usedGlitches (s.chanSettings c) v (s.chanLines c))) (s.ring c)
      (fun p => (Account.fault c s.now)^[usedGlitches (s.chanSettings c) v (s.chanLines c)] (s.account p c)) := by
  rw [edgeDue_chan, Bool.or_eq_false_iff, Bool.or_eq_false_iff] at quiet
  obtain ⟨⟨a, b⟩, z⟩ := quiet
  have settings : (s.atReport c v).chanSettings c = s.chanSettings c := rfl
  unfold takeReport
  rw [settings]
  split
  · rename_i off
    rw [usedGlitches_off off, Engine.faulted_zero]
    exact .refl c _
  · rename_i quad
    rw [reportQuad_eq, a, b, z]
    have faulted := (ChannelEffect.refl c (s.atReport c v)).glitchFaults (s.reportOf c v).glitchA
      (s.reportOf c v).glitchB ((s.reportOf c v).glitchZ && (s.chanSettings c).indexQuadrant.isSome)
    rw [reportOf_glitchA, reportOf_glitchB, reportOf_glitchZ, ← usedGlitches_quad quad] at faulted
    unfold quadDecoded decodeEdges
    rw [a, b, reportOf_glitchA, reportOf_glitchB, reportOf_glitchZ]
    exact faulted
  · rename_i tally
    obtain ⟨-, uncounted⟩ := ChannelEffect.reportTally (s := s.atReport c v) (c := c) (rep := s.reportOf c v)
      (n := usedGlitches (s.chanSettings c) v (s.chanLines c)) (gate := (s.engine c).modeState)
      (by rw [usedGlitches_tally tally, reportOf_glitchA, reportOf_glitchB]; rfl) (by rw [b]; rfl)
    exact uncounted fun h => absurd (a.symm.trans h.1) (by decide)
  · exact reportSpan_atReport ‹_› (next := ((s.engine c).modeState, none)) (by rw [a]; rfl)
  · exact reportWidth_atReport ‹_› (next := ((s.engine c).modeState, none)) (by rw [a]; rfl)

/-- Settles O9: without an edge a report is its glitches; in OFF it is nothing. -/
theorem glitchesOnUsedLinesAreFaults : Obligations.GlitchesOnUsedLinesAreFaults := by
  unfold Obligations.GlitchesOnUsedLinesAreFaults
  intro c v s run fresh
  constructor
  · intro quiet
    have effect := takeReport_quiet quiet
    refine ⟨_, exec_lineSample run fresh, ?_⟩
    rw [takeSample_chan]
    exact ⟨effect.engine, fun d apart => (effect.others d apart).1, effect.account,
      fun p d apart => (effect.others d apart).2.2 p,
      (setChanLines_only s c _).andThen effect.only_of_ring (by decide)⟩
  · intro off
    refine ⟨_, exec_lineSample run fresh, ?_⟩
    rw [takeSample_chan]
    unfold takeReport
    rw [show (s.atReport c v).chanSettings c = s.chanSettings c from rfl, off]
    exact setChanLines_only s c _

/-! ### TALLY, SPAN and WIDTH samples -/

/-- Settles O10: the gate follows an edge of B, then a selected edge of A counts while it is open. -/
theorem tallyCountsSelectedEdges : Obligations.TallyCountsSelectedEdges := by
  unfold Obligations.TallyCountsSelectedEdges
  intro c v s run fresh tally
  obtain ⟨counted, uncounted⟩ := ChannelEffect.reportTally (s := s.atReport c v) (c := c) (rep := s.reportOf c v)
    (n := usedGlitches (s.chanSettings c) v (s.chanLines c))
    (by rw [usedGlitches_tally tally, reportOf_glitchA, reportOf_glitchB]; rfl) rfl
  rw [atReport_chanLines] at counted uncounted
  refine ⟨_, if (s.reportOf c v).edgeB then gateState (s.chanSettings c).gate (s.sampledLines c v).b.filtered
    else (s.engine c).modeState, exec_lineSample run fresh, ?_⟩
  rw [takeSample_chanLines_self, ← reportOf_edgeB, ← reportOf_edgeA, takeSample_chan]
  unfold takeReport
  rw [show (s.atReport c v).chanSettings c = s.chanSettings c from rfl, tally]
  refine ⟨fun edge => if_pos edge, fun still => if_neg still,
    fun test => ⟨(counted test).engine, (counted test).account⟩,
    fun test => ⟨(uncounted test).engine, (uncounted test).account⟩, fun d apart => ?_, ?_⟩
  · obtain ⟨engine, -, view⟩ := takeSample_elsewhere c v s d apart
    rw [takeSample_chan] at engine view
    unfold takeReport at engine view
    rw [show (s.atReport c v).chanSettings c = s.chanSettings c from rfl, tally] at engine view
    exact ⟨engine, view⟩
  · exact (setChanLines_only s c _).andThen (reportTally_only c _ _) (by decide)

/-- The outcome of a SPAN or WIDTH sample, spelt out (R48). -/
theorem measured_outcome {c : Chan} {v : Levels} {s t : State} {next : ModeState × Option (EntryKind × Tick)} {n : Nat}
    (effect : ChannelEffect c (s.atReport c v) t { (s.engine c).faulted n with modeState := next.1 }
      ((s.ring c).measured s.now next.2)
      (fun p => Account.measured c s.now (s.ring c) next.2 ((Account.fault c s.now)^[n] (s.account p c)))) :
    t.engine c = { s.engine c with modeState := next.1, faultTally := tallyAfter (s.engine c).faultTally n } ∧
    (next.2 = none → t.ring c = s.ring c ∧ ∀ p, t.account p c = (Account.fault c s.now)^[n] (s.account p c)) ∧
    (∀ kind start, next.2 = some (kind, start) →
      t.ring c = (s.ring c).afterPush kind ((s.now - start).setWidth 32) s.now false false ∧
      ∀ p, t.account p c = Account.primary c s.now (Account.push c s.now (s.ring c)
        ((Account.fault c s.now)^[n] (s.account p c)))) ∧
    (∀ d, d ≠ c → t.engine d = s.engine d ∧ t.ring d = s.ring d ∧ ∀ p, t.view p d = s.view p d) ∧
    SameExcept [.lines, .engines, .rings, .views, .queues, .intLine] s t := by
  obtain ⟨after, ended⟩ := next
  refine ⟨effect.engine, fun none => ?_, fun kind start some => ?_, effect.ofSampled.1, effect.ofSampled.2⟩
  · cases none
    exact ⟨effect.ring, effect.account⟩
  · cases some
    exact ⟨effect.ring, effect.account⟩

theorem spanNext_spec (now : Tick) (m : ModeState) :
    (spanNext now m).1 = .timing now ∧ (m = .waitFirst → (spanNext now m).2 = none) ∧
      ∀ start, m = .timing start → (spanNext now m).2 = some (.period, start) := by
  refine ⟨rfl, ?_, ?_⟩
  · rintro rfl; rfl
  · rintro start rfl; rfl

/-- Settles O13: the next state and what it ends, by the mode and the edge of A. -/
theorem edgesEndMeasurements : Obligations.EdgesEndMeasurements := by
  unfold Obligations.EdgesEndMeasurements
  intro c v s run fresh mode
  have settings : (s.atReport c v).chanSettings c = s.chanSettings c := rfl
  rcases mode with span | width
  · have effect := reportSpan_atReport (v := v) span rfl
    refine ⟨takeSample (.chan c v) s,
      (spanReported (s.chanSettings c) (s.sampledLines c v) s.now (s.reportOf c v).edgeA (s.engine c).modeState).1,
      (spanReported (s.chanSettings c) (s.sampledLines c v) s.now (s.reportOf c v).edgeA (s.engine c).modeState).2,
      exec_lineSample run fresh, fun _ => ?_, fun other => absurd (span.symm.trans other) (by decide), ?_⟩
    · rw [takeSample_chanLines_self, ← reportOf_edgeA]
      refine ⟨fun still => ?_, fun edge selected => ?_⟩
      · rw [spanReported, if_neg (by rwa [Bool.and_eq_true])]
        exact ⟨rfl, rfl⟩
      · rw [spanReported, if_pos (by rw [Bool.and_eq_true]; exact ⟨edge, selected⟩)]
        exact spanNext_spec s.now (s.engine c).modeState
    · rw [takeSample_chan]
      unfold takeReport
      rw [settings, span]
      exact measured_outcome effect
  · have effect := reportWidth_atReport (v := v) width rfl
    refine ⟨takeSample (.chan c v) s,
      (widthReported (s.chanSettings c) (s.sampledLines c v) s.now (s.reportOf c v).edgeA (s.engine c).modeState).1,
      (widthReported (s.chanSettings c) (s.sampledLines c v) s.now (s.reportOf c v).edgeA (s.engine c).modeState).2,
      exec_lineSample run fresh, fun other => absurd (width.symm.trans other) (by decide), fun _ => ?_, ?_⟩
    · rw [takeSample_chanLines_self, ← reportOf_edgeA]
      refine ⟨fun still => ?_, fun edge active was => ?_, fun edge inactive => ?_⟩
      · rw [widthReported, if_neg still]
        exact ⟨rfl, rfl⟩
      · rw [widthReported, if_pos edge, decide_eq_true active, was]
        exact ⟨rfl, rfl⟩
      · rw [widthReported, if_pos edge, decide_eq_false inactive]
        exact ⟨fun was => by rw [was]; exact ⟨rfl, rfl⟩, fun start was => by rw [was]; exact ⟨rfl, rfl⟩⟩
    · rw [takeSample_chan]
      unfold takeReport
      rw [settings, width]
      exact measured_outcome effect

/-! ### QUAD samples (R23 to R34) -/

/-- The engine of a QUAD channel after the glitches and the decoding of a sample. -/
theorem decoded_faulted (r : ChanSettings) (l l' : ChanLines) (n : Nat) (cond : Bool) (e : Engine) :
    { (e.faulted n).decoded r l l' with indexCond := cond } =
      { e with
        modeState := .quad (filteredAB l')
        position := e.position + BitVec.ofInt 32 (signedStep r (filteredAB l) (filteredAB l'))
        referenced := e.referenced && !phaseErrorIn l l'
        faultTally := tallyAfter e.faultTally (n + if phaseErrorIn l l' then 1 else 0)
        indexCond := cond } := by
  unfold Engine.decoded Engine.faulted
  dsimp only
  rw [tallyAfter_tallyAfter]

theorem indexCondition_eq (r : ChanSettings) (l : ChanLines) :
    indexCondition r l = decide (l.z.filtered = r.indexPolarity ∧ r.indexQuadrant = some (filteredAB l)) := by
  rw [Bool.eq_iff_iff, indexCondition_iff, decide_eq_true_iff]

/-- A QUAD report that makes no qualified index (R28, R29). -/
theorem reportQuad_unqualified {c : Chan} {v : Levels} {s : State} (quad : (s.chanSettings c).mode = .quad)
    (follows : (s.engine c).modeState = .quad (filteredAB (s.chanLines c)))
    (unqualified : ¬ (s.edgeDue (.chan c v) = true ∧ (s.engine c).indexCond = false ∧
      indexCondition (s.chanSettings c) (s.sampledLines c v) = true)) :
    ChannelEffect c (s.atReport c v) (reportQuad c (s.reportOf c v) (s.atReport c v))
      { ((s.engine c).faulted (usedGlitches (s.chanSettings c) v (s.chanLines c))).decoded (s.chanSettings c)
          (s.chanLines c) (s.sampledLines c v) with
        indexCond := if s.edgeDue (.chan c v) = true then indexCondition (s.chanSettings c) (s.sampledLines c v)
          else (s.engine c).indexCond } (s.ring c)
      (fun p => Account.stepped c s.now (s.chanSettings c) (s.engine c) (s.chanLines c) (s.sampledLines c v)
        ((Account.fault c s.now)^[usedGlitches (s.chanSettings c) v (s.chanLines c)] (s.account p c))) := by
  have decoded := quadDecoded_atReport (v := v) quad follows
  rw [reportQuad_eq, ← edgeDue_chan]
  by_cases due : s.edgeDue (.chan c v) = true
  · rw [if_pos due, if_pos due]
    have effect := decoded.evalIndex_unqualified (by
      rw [atReport_chanLines]
      exact fun h => unqualified ⟨due, h.2, h.1⟩)
    rwa [atReport_chanLines] at effect
  · rw [if_neg due, if_neg due]
    exact decoded

/-- Settles O11: the decoding, then the index condition where an edge fell. -/
theorem quadDecodesTransitions : Obligations.QuadDecodesTransitions := by
  unfold Obligations.QuadDecodesTransitions
  intro c v s run fresh quad follows
  refine ⟨_, exec_lineSample run fresh, ?_, takeSample_elsewhere c v s, takeSample_chan_only c v s⟩
  rw [takeSample_chanLines_self, ← indexCondition_eq]
  intro unqualified
  rw [← indexCondition_iff] at unqualified
  have effect := reportQuad_unqualified quad follows unqualified
  rw [decoded_faulted] at effect
  rw [takeSample_chan]
  unfold takeReport
  rw [show (s.atReport c v).chanSettings c = s.chanSettings c from rfl, quad]
  exact ⟨effect.engine, effect.account, (setChanLines_only s c _).andThen effect.only_of_ring (by decide)⟩

/-- The engines that a capture event of a qualified index reads (R145). -/
theorem captureEngine_index {c : Chan} {u : State} {before : Engine} {engines : Chan → Engine}
    (others : ∀ d, d ≠ c → u.engine d = engines d) :
    captureEngine u (some (c, before)) = fun d => if d = c then before else engines d := by
  funext d
  show (if c = d then before else u.engine d) = _
  by_cases here : d = c
  · rw [if_pos here.symm, if_pos here]
  · rw [if_neg (Ne.symm here), if_neg here, others d here]

theorem serves_index (c : Chan) (before : Engine) : serves (.index c before) = fun src => src == .index c := by
  funext src
  rw [Bool.eq_iff_iff]
  cases src with
  | index d => simpa only [serves, beq_iff_eq, SnapSource.index.injEq] using eq_comm
  | _ => simp only [serves, beq_iff_eq, reduceCtorEq]

theorem serves_line (n : CapIdx) : serves (.line n) = fun src => src == .line n := by
  funext src
  rw [Bool.eq_iff_iff]
  cases src with
  | line m => simpa only [serves, beq_iff_eq, SnapSource.line.injEq] using eq_comm
  | _ => simp only [serves, beq_iff_eq, reduceCtorEq]

theorem serves_target (tick : Tick) : serves (.target tick) = fun src => src == .time tick := by
  funext src
  rw [Bool.eq_iff_iff]
  cases src with
  | time target => simpa only [serves, beq_iff_eq, SnapSource.time.injEq] using eq_comm
  | _ => simp only [serves, beq_iff_eq, reduceCtorEq]

/-- What a capture event tells a port depends on the slots and the timebase alone. -/
theorem toldOfReady_eq {s u : State} (slots : ∀ i, u.slot i = s.slot i) (now : u.now = s.now)
    (fires : SnapSource → Bool) (p : Port) (q : Queue) :
    q.toldOfSlots u p (readyNotice fires u) = q.toldOfSlots s p (readyNotice fires s) := by
  have news : readyNotice fires u = readyNotice fires s := by
    funext i sn stale
    simp only [readyNotice, slots, now]
  rw [news]
  simp only [Queue.toldOfSlots, slots]

/-- A QUAD report that makes a qualified index: a capture event after the load (R29, R31). -/
theorem reportQuad_qualified {c : Chan} {v : Levels} {s : State} (quad : (s.chanSettings c).mode = .quad)
    (follows : (s.engine c).modeState = .quad (filteredAB (s.chanLines c)))
    (due : s.edgeDue (.chan c v) = true) (was : (s.engine c).indexCond = false)
    (cond : indexCondition (s.chanSettings c) (s.sampledLines c v) = true) {before : Engine}
    (stood : before = { ((s.engine c).faulted (usedGlitches (s.chanSettings c) v (s.chanLines c))).decoded
      (s.chanSettings c) (s.chanLines c) (s.sampledLines c v) with indexCond := true }) :
    ∃ u, reportQuad c (s.reportOf c v) (s.atReport c v) = captureEvent (.index c before) u ∧
      ChannelEffect c (s.atReport c v) u (before.homed (s.chanSettings c).homeValue)
        ((s.ring c).afterPush .index before.position s.now false before.homingArmed)
        (fun p => Account.indexed c s.now (s.chanSettings c).homeValue before (s.ring c)
          (Account.stepped c s.now (s.chanSettings c) (s.engine c) (s.chanLines c) (s.sampledLines c v)
            ((Account.fault c s.now)^[usedGlitches (s.chanSettings c) v (s.chanLines c)] (s.account p c)))) := by
  subst stood
  rw [reportQuad_eq, ← edgeDue_chan, if_pos due]
  exact (quadDecoded_atReport (v := v) quad follows).evalIndex_qualified (by rw [atReport_chanLines]; exact cond) was

/-- Settles O12: the capture event comes after the push and the load, with the engine before the load. -/
theorem qualifiedIndexIsTaken : Obligations.QualifiedIndexIsTaken := by
  unfold Obligations.QualifiedIndexIsTaken
  intro c v q s run fresh quad follows quadrant was due
  refine ⟨_, exec_lineSample run fresh, ?_, takeSample_elsewhere c v s, takeSample_chan_only c v s⟩
  rw [takeSample_chanLines_self]
  rintro polarity rfl
  have cond := (indexCondition_iff _ _).mpr ⟨polarity, quadrant⟩
  obtain ⟨u, taken, effect⟩ := reportQuad_qualified quad follows due was cond rfl
  rw [decoded_faulted] at taken effect
  generalize stood : ({ s.engine c with
    modeState := .quad (filteredAB (s.sampledLines c v))
    position := (s.engine c).position + BitVec.ofInt 32 (signedStep (s.chanSettings c)
      (filteredAB (s.chanLines c)) (filteredAB (s.sampledLines c v)))
    referenced := (s.engine c).referenced && !phaseErrorIn (s.chanLines c) (s.sampledLines c v)
    faultTally := tallyAfter (s.engine c).faultTally (usedGlitches (s.chanSettings c) v (s.chanLines c) +
      if phaseErrorIn (s.chanLines c) (s.sampledLines c v) then 1 else 0)
    indexCond := true } : Engine) = before at taken effect ⊢
  have armed : before.homingArmed = (s.engine c).homingArmed := by rw [← stood]
  have sampled : takeSample (.chan c v) s = captureEvent (.index c before) u := by
    rw [takeSample_chan, ← taken]
    unfold takeReport
    rw [show (s.atReport c v).chanSettings c = s.chanSettings c from rfl, quad]
  have only := captureEvent_only (.index c before) u
  have slots (i : SlotIdx) : u.slot i = s.slot i := effect.only.slot_eq (by decide) i
  have now : u.now = s.now := effect.now_eq
  have captures := captureEvent_captures (.index c before) (u := u) slots now
  rw [serves_index, show (CaptureCause.index c before).before = some (c, before) from rfl,
    captureEngine_index (engines := s.engine) fun d apart => (effect.others d apart).1] at captures
  rw [sampled, only.ring_eq (by decide), only.engine_eq (by decide), effect.ring, effect.engine, armed]
  refine ⟨before, _, _, rfl, rfl, fun _ => rfl, fun _ => rfl, captures, fun p => ?_, fun disarmed => ?_, fun on => ?_⟩
  · refine ⟨u.account p c, only.view_eq (by decide) p c, ?_, fun disarmed => ?_, fun on => ?_⟩
    · rw [captureEvent_queue, serves_index, toldOfReady_eq slots now]
      rfl
    · rw [effect.account, Account.indexed, armed, disarmed]
      rfl
    · rw [effect.account, Account.indexed, armed, on]
      rfl
  · rw [Engine.homed, armed, disarmed]
    rfl
  · rw [Engine.homed, armed, on]
    rfl

/-! ### Capture events of lines and targets (R16, R142) -/

/-- A sample of a capture line whose edge matches (R16). -/
theorem takeSample_cap_captures {n : CapIdx} {v : Level} {s : State} (due : s.edgeDue (.cap n v) = true)
    (selected : capSelects (tget s.device.capEdge n) v = true) :
    takeSample (.cap n v) s = captureEvent (.line n) (s.setCap n
      { line := (sampleLine (filterLength s.device.lineFilterStep) v (s.cap n).line).line, sampled := true }) := by
  have edge : (sampleLine (filterLength s.device.lineFilterStep) v (s.cap n).line).edge = true := due
  simp only [takeSample]
  rw [if_pos]
  rw [edge, sampleLine_filtered_of_edge edge]
  exact selected

/-- A sample of a capture line to a level that its selection does not match (R16). -/
theorem takeSample_cap_unselected {n : CapIdx} {v : Level} {s : State}
    (unselected : capSelects (tget s.device.capEdge n) v = false) :
    SameExcept [.caps] s (takeSample (.cap n v) s) := by
  simp only [takeSample]
  rw [if_neg]
  · exact setCap_only _ _ _
  · intro h
    obtain ⟨edge, selected⟩ := Bool.and_eq_true_iff.mp h
    rw [sampleLine_filtered_of_edge edge] at selected
    exact absurd (unselected.symm.trans selected) Bool.false_ne_true

theorem exec_timeTargetReached (target : Tick) (s : State) :
    exec (.timeTargetReached target) s =
      .next (if s.running ∧ s.now = target then captureEvent (.target target) s else s) := rfl

/-- Settles O15: both events are capture events, after which every slot and queue is known. -/
theorem captureEventsServeTheirSnapshots : Obligations.CaptureEventsServeTheirSnapshots := by
  unfold Obligations.CaptureEventsServeTheirSnapshots
  intro s run
  refine ⟨fun n v fresh due selected => ?_, fun n v fresh unselected => ?_, ?_, fun target other => ?_⟩
  · refine ⟨_, exec_filteredEdge run fresh due, ?_, ?_, fun q => ?_, takeSample_cap_only n v s⟩
    · rw [takeSample_cap_self]
      exact sampleLine_filtered_of_edge due
    · rw [takeSample_cap_captures due selected, ← serves_line]
      exact captureEvent_captures (.line n) (s := s) (u := s.setCap n _) (fun _ => rfl) rfl
    · rw [takeSample_cap_captures due selected, captureEvent_queue, serves_line]
      rfl
  · exact ⟨_, exec_lineSample run fresh, takeSample_cap_unselected unselected⟩
  · refine ⟨captureEvent (.target s.now) s, by rw [exec_timeTargetReached, if_pos ⟨run, rfl⟩], ?_, fun q => ?_, captureEvent_only _ s⟩
    · have captures := captureEvent_captures (.target s.now) (s := s) (u := s) (fun _ => rfl) rfl
      rwa [serves_target] at captures
    · rw [captureEvent_queue, serves_target]
  · rw [exec_timeTargetReached, if_neg fun h => other h.2.symm]

/-! ### The waits (R48, R54, R106, R147) -/

/-- Settles O14: a measurement of 2^32-1 ticks ends as any other does, then the engine waits. -/
theorem overrangeEndsMeasurement : Obligations.OverrangeEndsMeasurement := by
  unfold Obligations.OverrangeEndsMeasurement
  intro c start kind after s run measuring
  have due (now : Tick) : overrangeDue (s.engine c).modeState = some now ↔ now = start + 4294967295 := by
    rw [overrangeDue_iff]
    rcases measuring with ⟨timing, -, -⟩ | ⟨pulse, -, -⟩
    · simp [timing]
    · simp [pulse]
  have ended : overrangeEnd c s = setModeState c after (endMeasurement c kind (BitVec.allOnes 32) true s) := by
    unfold overrangeEnd
    rcases measuring with ⟨mode, rfl, rfl⟩ | ⟨mode, rfl, rfl⟩ <;> rw [mode]
  have effect := ((ChannelEffect.refl c s).endMeasurement kind (BitVec.allOnes 32) true).modeState after
  rw [← ended] at effect
  refine ⟨fun now => ?_, fun other => congrArg _ (if_neg fun h => other ((due s.now).mp h.2))⟩
  exact ⟨overrangeEnd c s, congrArg _ (if_pos ⟨run, (due s.now).mpr now⟩), effect.ring, effect.engine, effect.account,
    effect.others, effect.only⟩

/-- Settles O16. -/
theorem armLimitExpires : Obligations.ArmLimitExpires := by
  unfold Obligations.ArmLimitExpires
  intro i sn stale s run body armed
  refine ⟨expireSlot .timeout 0 i s,
    congrArg _ (if_pos ⟨run, (armLimitDue_iff s i).mpr ⟨sn, stale, body, armed⟩⟩), ?_, fun j apart => ?_, fun q => ?_,
    expireSlot_only _ _ _ _⟩
  · rw [expireSlot_slot, if_pos rfl, Slot.onward_of_armed body armed]
  · rw [expireSlot_slot, if_neg (Ne.symm apart)]
  · rw [expireSlot_queue, Slot.tell_of_armed body armed, Bool.beq_comm]
    rfl

/-- What the expiry of a lease tells a port: the former holder first, then the new one (R106, R107). -/
theorem expireLease_queue {r : Resource} {h : Port} {s : State} (held : (s.claim r).holder = some h) (q : Port) :
    (expireLease r s).queue q =
      ((s.queue q).told (q == h)
        { kind := .claimRevoked, source := .resource r, time := s.now,
          value := s.device.leasePeriod.setWidth 32,
          aux := match (s.claim r).waiters.head? with
            | some w => BitVec.ofNat 32 w.val
            | none => 0xFFFFFFFF }).told ((s.claim r).waiters.head? == some q)
        { kind := .claimGranted, source := .resource r, time := s.now, value := 2,
          aux := BitVec.ofNat 32 h.val } := by
  simp only [expireLease, held]
  rw [pass_queue, (handNotice_only _ _ _).claim_eq (by decide), (handNotice_only _ _ _) .now (by decide),
    handNotice_queue, State.claim_setClaim_self, State.setClaim_queue]
  cases (s.claim r).waiters <;> simp [Queue.told, eq_comm (a := h)]

/-- Settles O17. -/
theorem leaseExpiryPassesResource : Obligations.LeaseExpiryPassesResource := by
  unfold Obligations.LeaseExpiryPassesResource
  intro r h s run held
  refine ⟨fun due => ?_, fun other => congrArg _ (if_neg fun now => other now.2)⟩
  exact ⟨expireLease r s, congrArg _ (if_pos ⟨run, due⟩), expireLease_claim_self r s held,
    fun k apart => expireLease_claim_of_ne apart s, expireLease_queue held, expireLease_only r s⟩

end Sys2Proof.Machine
end

section
/-! PROOFS. The frames of the ports: their start and what is clocked out, the frames that do nothing, and READ
(O18, O19, O20). -/

namespace Sys2Proof.Machine

open Sys2Proof

/-! ### The status byte (R182, R199) -/

theorem yesNo_getElem (b : Bool) (k : Nat) (inside : k < 8) : (yesNo b)[k] = (b && decide (k = 0)) := by
  cases b with
  | false => simp [yesNo]
  | true => simp [yesNo, BitVec.getElem_one]

section
variable (pt : PortIf) (notices : Nat)

theorem statusByte_bit7 : (statusByte pt notices).getLsbD 7 = pt.resetSeen := by
  simp [statusByte, yesNo_getElem]

theorem statusByte_bit6 : (statusByte pt notices).getLsbD 6 = pt.collided := by
  simp [statusByte, yesNo_getElem]

theorem statusByte_bit5 : (statusByte pt notices).getLsbD 5 = pt.slot.isSome := by
  simp [statusByte, yesNo_getElem]

/-- Bits 4 to 0 hold a number of at most 16. -/
theorem statusByte_count (few : notices ≤ 16) : (statusByte pt notices).toNat % 32 = notices := by
  have bits : ∀ (reset collided held : Bool) (n : Fin 17),
      ((yesNo reset <<< 7) ||| (yesNo collided <<< 6) ||| (yesNo held <<< 5) ||| (byteOf n.val &&& 0x1F)).toNat % 32
        = n.val := by decide
  exact bits pt.resetSeen pt.collided pt.slot.isSome ⟨notices, by omega⟩

end

/-! ### What a port clocks out (R181, R187, R206) -/

theorem sdoLevel_high_iff (pt : PortIf) :
    sdoLevel pt = .high ↔ (sdoByte pt (pt.shifted / 8)).getLsbD (7 - pt.shifted % 8) = true := by
  unfold sdoLevel
  split <;> simp_all

theorem sdoByte_congr {pt pt' : PortIf} (recv : pt'.recv = pt.recv) (presented : pt'.presented = pt.presented)
    (status : pt'.status = pt.status) (n : Nat) : sdoByte pt' n = sdoByte pt n := by
  simp only [sdoByte, recv, presented, status]

theorem takeEdge_shifted {e : ClockEdge} {pt : PortIf} (receiving : pt.recv = .receiving) :
    (takeEdge e pt).shifted = pt.shifted + if e = .fall then 1 else 0 := by
  rcases takeEdge_cases e pt with ⟨still, -⟩ | ⟨-, rfl, moved⟩ | ⟨-, v, rfl, moved⟩
  · exact absurd receiving still
  · rw [moved, if_pos rfl]
  · rw [moved, if_neg nofun]
    rcases receiveBit_cases v pt with ⟨-, bit⟩ | ⟨-, -, bit⟩ | ⟨-, -, bit⟩
    · rw [bit]; rfl
    · rw [bit]; rfl
    · rw [bit]; rfl

/-- Clock edges move data-out on by their falling edges, and change nothing else of what is clocked out. -/
theorem foldl_takeEdge (edges : List ClockEdge) {pt : PortIf} (receiving : pt.recv = .receiving) :
    (∀ n, sdoByte (edges.foldl (fun pt e => takeEdge e pt) pt) n = sdoByte pt n) ∧
    (edges.foldl (fun pt e => takeEdge e pt) pt).shifted = pt.shifted + (edges.filter (· = .fall)).length := by
  induction edges generalizing pt with
  | nil => exact ⟨fun _ => rfl, rfl⟩
  | cons e edges ih =>
    obtain ⟨recv, status, presented, -⟩ := takeEdge_keeps e pt
    obtain ⟨bytes, shifted⟩ := ih (recv.trans receiving)
    refine ⟨fun n => (bytes n).trans (sdoByte_congr recv presented status n), ?_⟩
    rw [List.foldl_cons, shifted, takeEdge_shifted receiving, List.filter_cons]
    by_cases fall : e = .fall
    · simp [fall]; omega
    · simp [fall]

theorem crc8_eq (bs : List Byte) :
    crc8 bs = bs.foldl (fun (crc b : Byte) =>
      (fun x : Byte => if x.getLsbD 7 = true then (x <<< 1) ^^^ 0x07 else x <<< 1)^[8] (crc ^^^ b)) 0xFF := by
  unfold crc8
  congr 1

section
variable {pt : PortIf} (receiving : pt.recv = .receiving)
include receiving

theorem sdoByte_zero : sdoByte pt 0 = pt.status := by
  simp only [sdoByte, receiving]
  cases pt.presented <;> rfl

theorem sdoByte_of_empty (empty : pt.presented = none) {n : Nat} (later : 1 ≤ n) : sdoByte pt n = 0 := by
  simp only [sdoByte, receiving, empty]
  exact if_neg (by omega)

theorem sdoByte_of_presented {r : Response} (presented : pt.presented = some r) (n : Nat) :
    sdoByte pt (n + 1) = (responseBytes r).getD n 0 := by
  simp only [sdoByte, receiving, presented, List.getD_cons_succ]

end

theorem responseBytes_getD_payload {r : Response} {m : Nat} (inside : m < r.payload.length) :
    (responseBytes r).getD (3 + m) 0 = r.payload[m] := by
  rw [Nat.add_comm]
  simp [responseBytes, List.getElem?_append_left, inside]

theorem responseBytes_getD_crc (r : Response) :
    (responseBytes r).getD (3 + r.payload.length) 0 =
      crc8 (RespCode.code r.code :: r.tag.setWidth 8 :: byteOf r.payload.length :: r.payload) := by
  rw [Nat.add_comm]
  simp [responseBytes]

theorem responseBytes_getD_beyond {r : Response} {n : Nat} (beyond : 3 + r.payload.length < n) :
    (responseBytes r).getD n 0 = 0 := by
  rw [List.getD_eq_default]
  simp [responseBytes]
  omega

/-- Settles O18. -/
theorem frameStartFixesWhatIsClockedOut : Obligations.FrameStartFixesWhatIsClockedOut := by
  unfold Obligations.FrameStartFixesWhatIsClockedOut
  intro p s run idle fresh
  refine ⟨statusByte (s.port p) (s.queue p).notices.length, _, congrArg _ (if_pos ⟨run, idle, fresh⟩), rfl,
    statusByte_bit7 _ _, statusByte_bit6 _ _, statusByte_bit5 _ _, statusByte_count _ _, ?_⟩
  generalize started : ({ s.port p with
    recv := .receiving, selSampled := true, frameBytes := [], wholeBytes := 0, bits := [], shifted := 0
    status := statusByte (s.port p) (s.queue p).notices.length, presented := (s.port p).slot } : PortIf) = pt
  have receiving : pt.recv = .receiving := by rw [← started]
  have status : pt.status = statusByte (s.port p) (s.queue p).notices.length := by rw [← started]
  have presented : pt.presented = (s.port p).slot := by rw [← started]
  have shifted : pt.shifted = 0 := by rw [← started]
  refine ⟨(sdoByte_zero receiving).trans status, ?_, fun edges => ?_, fun empty n later => ?_, fun r full => ?_⟩
  · rw [sdoLevel_high_iff, shifted, show 0 / 8 = 0 from rfl, sdoByte_zero receiving, status]
    exact iff_of_eq (congrArg (· = true) (statusByte_bit7 _ _))
  · obtain ⟨bytes, moved⟩ := foldl_takeEdge edges receiving
    rw [sdoLevel_high_iff, moved, shifted, Nat.zero_add, bytes]
  · exact sdoByte_of_empty receiving (presented.trans empty) later
  · have out := sdoByte_of_presented receiving (presented.trans full)
    refine ⟨out 0, out 1, out 2, fun m inside => ?_, ?_, fun n beyond => ?_⟩
    · rw [show 4 + m = 3 + m + 1 by omega, out, responseBytes_getD_payload inside]
    · rw [show 4 + r.payload.length = 3 + r.payload.length + 1 by omega, out, responseBytes_getD_crc, crc8_eq]
    · obtain ⟨k, rfl⟩ : ∃ k, n = k + 1 := ⟨n - 1, by omega⟩
      rw [out, responseBytes_getD_beyond (by omega)]

/-! ### Frames that do nothing (R179, R196; log entries 7 and 19) -/

section
variable {p : Port} {s : State}

theorem atFrameEnd_of_abandoned (run : s.running) (abandoned : (s.port p).recv = .abandoned)
    (fresh : (s.port p).selSampled = false) (bytes : List Byte) (work : State → State) :
    atFrameEnd p bytes work s = abandonedEnd p s := by
  rw [atFrameEnd, if_pos ⟨run, fresh⟩, abandoned]

theorem atFrameEnd_of_sampled (sampled : (s.port p).selSampled = true) (bytes : List Byte) (work : State → State) :
    atFrameEnd p bytes work s = s := if_neg fun h => Bool.false_ne_true (h.2.symm.trans sampled)

theorem atFrameEnd_of_not_received {bytes : List Byte} (receiving : (s.port p).recv = .receiving)
    (other : hasReceived (s.port p) bytes = false) (work : State → State) : atFrameEnd p bytes work s = s := by
  rcases atFrameEnd_cases p bytes work s with same | ⟨-, abandoned, -⟩ | ⟨⟨-, -, -, received⟩, -⟩
  · exact same
  · exact absurd (receiving.symm.trans abandoned) nofun
  · exact absurd (other.symm.trans received) Bool.false_ne_true

end

theorem exec_emptyFrame (p : Port) (s : State) :
    exec (.emptyFrame p) s =
      .next (atFrameEnd p []
        (fun s => s.setPort p { s.port p with recv := .idle, selSampled := true, bits := [], shifted := 0 }) s) := rfl

/-- Settles O19: what a frame's end does by the receiver state, the select mark and the bytes received. -/
theorem emptyAndAbandonedFramesDoNothing : Obligations.EmptyAndAbandonedFramesDoNothing := by
  unfold Obligations.EmptyAndAbandonedFramesDoNothing
  intro p s
  refine ⟨fun sent => ?_, fun run abandoned fresh => ⟨?_, fun i bytes wf ends => ?_⟩,
    fun sampled => ⟨?_, ?_, fun i bytes wf ends => ?_⟩, fun receiving i bytes wf ends other => ?_⟩
  · rw [exec_emptyFrame, atFrameEnd_of_inFrame sent]
  · exact congrArg _ (if_pos ⟨run, abandoned, fresh⟩)
  · obtain ⟨work, runs⟩ := exec_frameRow s wf ends
    rw [runs, atFrameEnd_of_abandoned run abandoned fresh]
    rfl
  · exact congrArg _ (if_neg fun h => Bool.false_ne_true (h.2.2.symm.trans sampled))
  · exact congrArg _ (if_neg fun h => Bool.false_ne_true (h.2.2.symm.trans sampled))
  · obtain ⟨work, runs⟩ := exec_frameRow s wf ends
    rw [runs, atFrameEnd_of_sampled sampled]
  · obtain ⟨work, runs⟩ := exec_frameRow s wf ends
    rw [runs, atFrameEnd_of_not_received receiving other]

/-! ### Activity (R104) -/

/-- What a port's activity may make of a claim: the holder's lease is restarted, or left where it is due now
(log entry 4). -/
def Renewed (p : Port) (s : State) (cl cl' : Claim) : Prop :=
  (cl.holder ≠ some p → cl' = cl) ∧
  (cl.holder = some p →
    cl' = (if s.device.leasePeriod = 0 then cl else { cl with leaseDue := s.newLease }) ∨
    cl.leaseDue = some s.now ∧ cl' = cl)

section
variable (p : Port) (r : Resource) (s : State)

theorem restartLease_claim_self :
    (restartLease r s).claim r =
      if s.device.leasePeriod = 0 then s.claim r else { s.claim r with leaseDue := s.newLease } := by
  unfold restartLease
  split
  · rfl
  · rw [State.claim_setClaim_self]

theorem restartLease_claim_of_ne {k : Resource} (apart : k ≠ r) : (restartLease r s).claim k = s.claim k := by
  unfold restartLease
  split
  · rfl
  · rw [State.claim_setClaim, if_neg apart.symm]

theorem renew_claim_self : Renewed p s (s.claim r) ((renew p r s).claim r) := by
  unfold renew
  dsimp only
  split
  · rename_i held
    refine ⟨fun other => absurd held other, fun _ => ?_⟩
    split
    · rename_i due
      split
      · exact .inl (restartLease_claim_self r s.nextFree)
      · exact .inr ⟨due, rfl⟩
    · exact .inl (restartLease_claim_self r s)
  · rename_i other
    exact ⟨fun _ => rfl, fun held => absurd held other⟩

theorem renew_claim_of_ne {k : Resource} (apart : k ≠ r) : (renew p r s).claim k = s.claim k := by
  unfold renew
  dsimp only
  split
  · split
    · split
      · exact restartLease_claim_of_ne r s.nextFree apart
      · rfl
    · exact restartLease_claim_of_ne r s apart
  · rfl

/-- A free value is drawn for a lease due now alone (log entry 4). -/
theorem renew_only_claims {r : Resource} (later : (s.claim r).leaseDue ≠ some s.now) :
    SameExcept [.claims] s (renew p r s) := by
  unfold renew
  dsimp only
  split
  · exact restartLease_only r s
  · exact .refl _ s

end

/-- Activity at each of some resources renews those and leaves the others. -/
theorem foldl_renew_claim (p : Port) {rs : List Resource} (nodup : rs.Nodup) (s : State) (k : Resource) :
    (k ∈ rs → Renewed p s (s.claim k) ((rs.foldl (fun s r => renew p r s) s).claim k)) ∧
    (k ∉ rs → (rs.foldl (fun s r => renew p r s) s).claim k = s.claim k) := by
  induction rs generalizing s with
  | nil => exact ⟨fun mem => absurd mem List.not_mem_nil, fun _ => rfl⟩
  | cons r rs ih =>
    obtain ⟨new, nodup⟩ := List.nodup_cons.mp nodup
    obtain ⟨inside, outside⟩ := ih nodup (renew p r s)
    rw [List.foldl_cons]
    have only := renew_only p r s
    refine ⟨fun mem => ?_, fun absent => ?_⟩
    · rcases List.mem_cons.mp mem with rfl | mem
      · rw [outside new]
        exact renew_claim_self p k s
      · have apart : k ≠ r := fun here => new (here ▸ mem)
        have renewed := inside mem
        rw [renew_claim_of_ne p r s apart] at renewed
        have device : (renew p r s).device = s.device := only .device (by decide)
        have now : (renew p r s).now = s.now := only .now (by decide)
        have lease := only.newLease_eq (by decide) (by decide)
        unfold Renewed at renewed ⊢
        rwa [device, now, lease] at renewed
    · rw [List.mem_cons, not_or] at absent
      rw [outside absent.2, renew_claim_of_ne p r s absent.1]

theorem activity_claim (p : Port) (s : State) (r : Resource) : Renewed p s (s.claim r) ((activity p s).claim r) :=
  (foldl_renew_claim p (List.nodup_finRange 9) s r).1 (List.mem_finRange r)

theorem activity_only_claims (p : Port) {s : State} (later : ∀ r, (s.claim r).leaseDue ≠ some s.now) :
    SameExcept [.claims] s (activity p s) := by
  have fold : ∀ {rs : List Resource}, rs.Nodup → ∀ {s : State}, (∀ r ∈ rs, (s.claim r).leaseDue ≠ some s.now) →
      SameExcept [.claims] s (rs.foldl (fun s r => renew p r s) s) := by
    intro rs
    induction rs with
    | nil => exact fun _ s _ => .refl _ s
    | cons r rs ih =>
      intro nodup s later
      obtain ⟨new, nodup⟩ := List.nodup_cons.mp nodup
      refine (renew_only_claims p s (later r List.mem_cons_self)).trans (ih nodup fun k mem => ?_)
      have apart : k ≠ r := fun here => new (here ▸ mem)
      have now : (renew p r s).now = s.now := renew_only p r s .now (by decide)
      rw [renew_claim_of_ne p r s apart, now]
      exact later k (List.mem_cons_of_mem r mem)
  exact fold (List.nodup_finRange 9) fun r _ => later r

/-! ### READ (R183, R184, R185) -/

theorem exec_readFrame (p : Port) (rest : List Byte) (s : State) :
    exec (.readFrame p rest) s =
      .next (atFrameEnd p (0 :: rest) (fun s => activity p (frameEnded p (0 :: rest) s)) s) := rfl

/-- Settles O20: the first two steps of the frame's end, then the port's activity. -/
theorem readFrameClearsAndRenews : Obligations.ReadFrameClearsAndRenews := by
  unfold Obligations.ReadFrameClearsAndRenews
  intro p rest s sent
  have ended := frameEnded_only p (0 :: rest) s
  have only := activity_only p (frameEnded p (0 :: rest) s)
  have port (q : Port) : (activity p (frameEnded p (0 :: rest) s)).port q = (frameEnded p (0 :: rest) s).port q :=
    only.port_eq (by decide) q
  have own : (activity p (frameEnded p (0 :: rest) s)).port p = endFramePort (0 :: rest) (s.port p) := by
    rw [port, frameEnded, State.port_setPort_self]
  refine ⟨_, by rw [exec_readFrame, atFrameEnd_of_inFrame sent], ?_⟩
  rw [own]
  have count : (0 :: rest).length = 1 + rest.length := by rw [List.length_cons, Nat.add_comm]
  refine ⟨rfl, rfl, rfl, rfl, rfl, ?_, rfl, rfl, ?_, fun q apart => ?_, fun r => ?_, fun later => ?_, ?_⟩
  · rw [← count]; rfl
  · rw [← count]; rfl
  · rw [port, frameEnded, State.port_setPort, if_neg (Ne.symm apart)]
  · exact activity_claim p (frameEnded p (0 :: rest) s) r
  · exact ended.andThen (activity_only_claims p later) (by decide)
  · exact ended.andThen only (by decide)

end Sys2Proof.Machine
end

section
/-! PROOFS. The frames of the ports: the checks of a command frame, the collision, and what a frame can change
(O21, O22, O23, O24, O25, O29, O30). -/

namespace Sys2Proof.Machine

open Sys2Proof

/-! ### Frames and rows (R180, R203) -/

theorem decodeFrame_spells (p : Port) (bytes : List Byte) :
    (decodeFrame p bytes).wellFormed = true ∧ frameOf (decodeFrame p bytes) = some (p, bytes) := by
  cases bytes with
  | nil => exact ⟨rfl, rfl⟩
  | cons code rest =>
    have row {n : Nat} (spelt : code.toNat = n) : code = BitVec.ofNat 8 n := by
      rw [← spelt, BitVec.ofNat_toNat, BitVec.setWidth_eq]
    by_cases zero : code.toNat = 0
    · rw [row zero]
      exact ⟨rfl, rfl⟩
    cases command : isCommandCode code with
    | false =>
      have ne : ¬ code = 0 := fun e => zero (by rw [e]; rfl)
      have unknown : isUnknownCode code = true := by
        rw [isUnknownCode, command, Bool.not_false, Bool.and_true, bne_iff_ne]
        exact ne
      rw [Laws.FrameRoundTrip.unknownCommand p code rest unknown p (code :: rest) rfl]
      exact ⟨unknown, rfl⟩
    | true =>
      unfold isCommandCode at command
      split at command
      case h_25 => cases command
      all_goals
        rw [row ‹code.toNat = _›]
        exact ⟨rfl, rfl⟩

/-- Settles O24. -/
theorem framesDecode : Obligations.FramesDecode := by
  unfold Obligations.FramesDecode
  refine ⟨decodeFrame_spells, fun i p bytes wf ends => ?_⟩
  cases i with
  | unknownCommand q code rest => exact Laws.FrameRoundTrip.unknownCommand q code rest wf p bytes ends
  | _ => cases ends <;> rfl

/-! ### The checks of a command frame (R186) -/

section
variable (code tagByte len : Byte) (body : List Byte)

theorem checkFrame_of_whole (short : len.toNat ≤ 24) (whole : 4 + len.toNat ≤ 1 + (tagByte :: len :: body).length) :
    checkFrame code (tagByte :: len :: body) =
      if body[len.toNat]? ≠ some (crc8 (code :: tagByte :: len :: body.take len.toNat)) then
        .fail (tagByte.setWidth 4) { code := .badCrc, payload := [code] }
      else if acceptsLength code len.toNat then .pass (tagByte.setWidth 4) (body.take len.toNat)
      else .fail (tagByte.setWidth 4) (badLength code len (wholeCount (1 + (tagByte :: len :: body).length))) := by
  simp only [List.length_cons] at whole
  have inside : len.toNat < body.length := by omega
  have crc : crc8 (code :: tagByte :: len :: body.take len.toNat) ≠ byteAt body len.toNat ↔
      body[len.toNat]? ≠ some (crc8 (code :: tagByte :: len :: body.take len.toNat)) := by
    rw [byteAt, List.getD_eq_getElem _ _ inside, List.getElem?_eq_getElem inside, ne_eq, ne_eq, Option.some.injEq,
      eq_comm]
  simp only [checkFrame, if_neg (show ¬ (24 < len.toNat ∨ body.length < len.toNat + 1) by omega), crc]

theorem checkFrame_of_bad_length (bad : 24 < len.toNat ∨ 1 + (tagByte :: len :: body).length < 4 + len.toNat) :
    checkFrame code (tagByte :: len :: body) =
      .fail (tagByte.setWidth 4) (badLength code len (wholeCount (1 + (tagByte :: len :: body).length))) := by
  simp only [List.length_cons] at bad
  simp only [checkFrame, if_pos (show 24 < len.toNat ∨ body.length < len.toNat + 1 by omega)]

end

/-- A slot that does not clear keeps its response (R184, R185). -/
theorem frameEnded_slot_of_full {p : Port} {bytes : List Byte} {s : State} (full : ¬ SlotClears p bytes s) :
    ((frameEnded p bytes s).port p).slot = (s.port p).slot ∧ (s.port p).slot.isSome = true := by
  rw [SlotClears, not_or, not_exists] at full
  obtain ⟨held, kept⟩ := full
  refine ⟨?_, Option.isSome_iff_ne_none.mpr held⟩
  rw [frameEnded, State.port_setPort_self, endFramePort]
  dsimp only
  split
  · rename_i r presented
    exact if_neg fun out => kept r ⟨presented, out⟩
  · rfl

section
variable {p : Port} {code : Byte} {rest : List Byte} {body : List Byte → State → State × Reply} {s : State}

theorem commandFrame_of_inFrame (sent : InFrame p (code :: rest) s) :
    commandFrame p code rest body s = runCommand p code rest body (frameEnded p (code :: rest) s) :=
  atFrameEnd_of_inFrame sent _

theorem runCommand_of_fail {tag : BitVec 4} {r : Reply} (failed : checkFrame code rest = .fail tag r) (t : State) :
    runCommand p code rest body t = if (t.port p).slot.isSome then collide p t else place p tag r t := by
  rw [runCommand, failed]

theorem runCommand_of_pass_full {tag : BitVec 4} {pl : List Byte} (passed : checkFrame code rest = .pass tag pl)
    {t : State} (full : (t.port p).slot.isSome = true) :
    runCommand p code rest body t = activity p (collide p t) := by
  rw [runCommand, passed]
  exact if_pos full

end

/-- Settles O21: a failed check is answered in an empty slot, and sets the collided mark of a full one. -/
theorem badFramesAreAnswered : Obligations.BadFramesAreAnswered := by
  unfold Obligations.BadFramesAreAnswered
  intro i p code rest s answer wf ends command sent clear full
  have fails {tag : BitVec 4} {r : Reply} (failed : checkFrame code rest = .fail tag r) :
      exec i s = .next (answer tag r.code r.payload) := by
    rw [exec_commandRow s wf ends command, commandFrame_of_inFrame sent, runCommand_of_fail failed]
    by_cases clears : SlotClears p (code :: rest) s
    · rw [frameEnded_slot_of_clears clears, clear clears]
      rfl
    · obtain ⟨kept, held⟩ := frameEnded_slot_of_full clears
      rw [kept, held, full clears, ← kept]
      rfl
  refine ⟨?_, ?_, ?_⟩
  · rintro rfl
    exact fails rfl
  · rintro tagByte rfl
    exact fails rfl
  · rintro tagByte len body rfl
    refine ⟨fun bad => fails
        (r := badLength code len (wholeCount (1 + (tagByte :: len :: body).length)))
        (checkFrame_of_bad_length _ _ _ _ bad), fun short whole wrong => fails
        (r := { code := .badCrc, payload := [code] }) ?_,
      fun short whole crc refused => fails (r := badLength code len (wholeCount (1 + (tagByte :: len :: body).length))) ?_⟩
    · rw [checkFrame_of_whole _ _ _ _ short whole, if_pos wrong]
    · rw [checkFrame_of_whole _ _ _ _ short whole, if_neg (not_not_intro crc), refused]
      rfl

/-! ### What a frame changes beyond its command (R185, R188, R191) -/

/-- Nothing but one port and, by activity, the claims and the counter of free values may differ. -/
def OwnFrameOnly (p : Port) (s t : State) : Prop :=
  SameExcept [.ports, .claims, .freeCount] s t ∧ ∀ q, q ≠ p → t.port q = s.port q

section
variable {p : Port} {s t u : State}

theorem OwnFrameOnly.refl (p : Port) (s : State) : OwnFrameOnly p s s := ⟨.refl _ s, fun _ _ => rfl⟩

theorem OwnFrameOnly.trans (h : OwnFrameOnly p s t) (k : OwnFrameOnly p t u) : OwnFrameOnly p s u :=
  ⟨h.1.trans k.1, fun q apart => (k.2 q apart).trans (h.2 q apart)⟩

theorem ownFrameOnly_setPort (p : Port) (x : PortIf) (s : State) : OwnFrameOnly p s (s.setPort p x) :=
  ⟨(setPort_only _ _ _).mono (by decide), fun q apart => by rw [State.port_setPort, if_neg (Ne.symm apart)]⟩

theorem ownFrameOnly_activity (p : Port) (s : State) : OwnFrameOnly p s (activity p s) :=
  ⟨(activity_only p s).mono (by decide), fun q _ => (activity_only p s).port_eq (by decide) q⟩

end

/-- What a frame can do: touch its own port and its port's leases; or, from a state that it has made so, run its
command and then do the same. -/
theorem frameRow_cases {i : Instr} {p : Port} {bytes : List Byte} {s t : State} (ends : frameOf i = some (p, bytes))
    (next : exec i s = .next t) :
    OwnFrameOnly p s t ∨
    ∃ pl, OwnFrameOnly p s (frameEnded p bytes s) ∧ OwnFrameOnly p (commandBody i pl (frameEnded p bytes s)).1 t := by
  have wf := wellFormed_of_next next
  cases bytes with
  | nil =>
    cases i with
    | emptyFrame q =>
      cases ends
      rw [exec_emptyFrame] at next
      cases next
      left
      rcases atFrameEnd_cases p [] _ s with h | ⟨-, -, h⟩ | ⟨-, h⟩ <;> rw [h]
      · exact .refl p s
      · exact ownFrameOnly_setPort p _ s
      · exact ownFrameOnly_setPort p _ s
    | _ => cases ends
  | cons code rest =>
    by_cases read : code = 0
    · subst read
      have row : i = .readFrame p rest := (framesDecode.2 i p _ wf ends).symm
      subst row
      rw [exec_readFrame] at next
      cases next
      left
      rcases atFrameEnd_cases p (0 :: rest) _ s with h | ⟨-, -, h⟩ | ⟨-, h⟩ <;> rw [h]
      · exact .refl p s
      · exact ownFrameOnly_setPort p _ s
      · exact (ownFrameOnly_setPort p _ s).trans (ownFrameOnly_activity p _)
    · rw [exec_commandRow s wf ends read] at next
      cases next
      have ended : OwnFrameOnly p s (frameEnded p (code :: rest) s) := ownFrameOnly_setPort p _ s
      rcases atFrameEnd_cases p (code :: rest)
          (fun s => runCommand p code rest (commandBody i) (frameEnded p (code :: rest) s)) s with
        h | ⟨-, -, h⟩ | ⟨-, h⟩ <;> rw [commandFrame, h]
      · exact .inl (.refl p s)
      · exact .inl (ownFrameOnly_setPort p _ s)
      · rcases runCommand_cases p code rest (commandBody i) (frameEnded p (code :: rest) s) with
          ⟨tag, r, -, k⟩ | k | k | ⟨tag, pl, -, -, k⟩ <;> rw [k]
        · exact .inl (ended.trans (ownFrameOnly_setPort p _ _))
        · exact .inl (ended.trans (ownFrameOnly_setPort p _ _))
        · exact .inl ((ended.trans (ownFrameOnly_setPort p _ _)).trans (ownFrameOnly_activity p _))
        · exact .inr ⟨pl, ended, (ownFrameOnly_setPort p _ _).trans (ownFrameOnly_activity p _)⟩

/-- Settles O22: the collided mark and the activity, and nothing of the command. -/
theorem fullSlotCollides : Obligations.FullSlotCollides := by
  unfold Obligations.FullSlotCollides
  intro i p code tagByte payload fill r s wf ends command short accepted sent held full
  obtain ⟨kept, isSome⟩ := frameEnded_slot_of_full full
  have ended : OwnFrameOnly p s (frameEnded p (code :: frameRest code tagByte payload fill) s) :=
    ownFrameOnly_setPort p _ s
  have only := (ended.trans (ownFrameOnly_setPort p
    { (frameEnded p (code :: frameRest code tagByte payload fill) s).port p with collided := true } _)).trans
    (ownFrameOnly_activity p _)
  refine ⟨activity p (collide p (frameEnded p (code :: frameRest code tagByte payload fill) s)), ?_, rfl, ?_, ?_, ?_,
    only.2, only.1⟩
  · rw [exec_commandRow s wf ends command, commandFrame_of_inFrame sent,
      runCommand_of_pass_full (checkFrame_frameRest code tagByte payload fill short accepted) (by rw [kept, isSome])]
  · rw [(activity_only p _).port_eq (by decide), collide, State.port_setPort_self, ← held, ← kept]
  · rw [(activity_only p _).port_eq (by decide), collide, State.port_setPort_self]
  · rw [(activity_only p _).port_eq (by decide), collide, State.port_setPort_self, frameEnded, State.port_setPort_self]
    rfl

/-- Settles O23: of the commands only DEVICE_RESET writes a port. -/
theorem framesKeepOtherPorts : Obligations.FramesKeepOtherPorts := by
  unfold Obligations.FramesKeepOtherPorts
  intro i p q bytes s t ends other next apart
  rcases frameRow_cases ends next with own | ⟨pl, ended, own⟩
  · exact own.2 q apart
  · have apart' (q : Port) (rest : List Byte) : i ≠ .deviceReset q rest := by
      rintro rfl
      cases ends
      exact other rest rfl
    have ports := (commandBody_only i pl (frameEnded p bytes s)).2 apart'
    rw [own.2 q apart, State.port, ports]
    exact ended.2 q apart

/-! ### Unknown codes (R189; log entry 13) -/

/-- Settles O25. -/
theorem unknownCodesAreAnswered : Obligations.UnknownCodesAreAnswered := by
  unfold Obligations.UnknownCodesAreAnswered
  intro p code tagByte payload rest s
  constructor
  · intro unknown sent
    have ne : code ≠ 0 := by
      rintro rfl
      exact absurd unknown (by decide)
    rw [exec_commandRow (i := .unknownCommand p code rest) s unknown rfl ne, commandFrame_answers sent rfl]
  · intro known
    have code : code = 0 ∨ isCommandCode code = true := by
      simpa [isUnknownCode, ← or_iff_not_imp_left] using known
    exact if_pos code

/-! ### The gates (R111) -/

theorem byteAt_zero_of_head {pl : List Byte} {b : Byte} (head : pl.head? = some b) : byteAt pl 0 = b := by
  cases pl with
  | nil => cases head
  | cons x xs => exact Option.some.inj head

section
variable {p : Port} {pl : List Byte} {body : Chan → State → State × Reply} {s : State}

theorem gateChannel_of_holder {c : Chan} (head : byteAt pl 0 = byteOf c.val)
    (holds : (s.claim (c.castLE (by decide))).holder = some p) : gateChannel p pl body s = body c s := by
  unfold gateChannel
  rw [head, finOf_byteOf]
  exact if_pos holds

theorem gateChannel_of_other {c : Chan} (head : byteAt pl 0 = byteOf c.val)
    (other : (s.claim (c.castLE (by decide))).holder ≠ some p) :
    gateChannel p pl body s = (s, notClaimed (byteOf c.val) (s.claim (c.castLE (by decide))).holder) := by
  unfold gateChannel
  rw [head, finOf_byteOf]
  exact if_neg other

theorem gateChannel_above {b : Byte} (head : byteAt pl 0 = b) (above : 8 ≤ b.toNat) :
    gateChannel p pl body s = (s, notClaimed b none) := by
  unfold gateChannel
  rw [head, finOf_eq_none above]

theorem gateDev_of_holder {body : State → State × Reply} (holds : (s.claim 8).holder = some p) :
    gateDev p body s = body s := if_pos holds

theorem gateDev_of_other {body : State → State × Reply} (other : (s.claim 8).holder ≠ some p) :
    gateDev p body s = (s, notClaimed 8 (s.claim 8).holder) := if_neg other

end

/-- The answer of a dispatched command row, from the run of its command. -/
theorem exec_answers {i : Instr} {p : Port} {code tagByte : Byte} {payload rest : List Byte} {s t : State}
    {answer : RespCode} {data : List Byte} (wf : i.wellFormed = true) (ends : frameOf i = some (p, code :: rest))
    (command : code ≠ 0) (sent : Dispatched p code tagByte payload rest s)
    (ran : commandBody i payload (frameEnded p (code :: rest) s) = (t, { code := answer, payload := data })) :
    exec i s = .next (answered p tagByte answer data t) := by
  rw [exec_commandRow s wf ends command, commandFrame_answers sent ran]

/-- Settles O29: a gate that does not open answers for the command. -/
theorem gatedCommandsOfOthersAreRefused : Obligations.GatedCommandsOfOthersAreRefused := by
  unfold Obligations.GatedCommandsOfOthersAreRefused
  intro p tagByte payload rest s
  constructor
  · intro i code row sent
    have gated : i.wellFormed = true ∧ frameOf i = some (p, code :: rest) ∧ code ≠ 0 ∧
        ∃ body : List Byte → Chan → State → State × Reply, commandBody i = fun pl => gateChannel p pl (body pl) := by
      rcases row with ⟨rfl, rfl⟩ | ⟨rfl, rfl⟩ | ⟨rfl, rfl⟩ | ⟨rfl, rfl⟩
      · exact ⟨rfl, rfl, by decide, _, rfl⟩
      · exact ⟨rfl, rfl, by decide, _, rfl⟩
      · exact ⟨rfl, rfl, by decide, fun _ => homeBody, rfl⟩
      · exact ⟨rfl, rfl, by decide, fun _ => homeCancelBody, rfl⟩
    obtain ⟨wf, ends, command, body, gate⟩ := gated
    refine ⟨fun c head other => exec_answers wf ends command sent ?_, fun b head above =>
      exec_answers wf ends command sent ?_⟩
    · rw [gate]
      exact gateChannel_of_other (byteAt_zero_of_head head) other
    · rw [gate]
      exact gateChannel_above (byteAt_zero_of_head head) above
  · intro i code row sent other
    have gated : i.wellFormed = true ∧ frameOf i = some (p, code :: rest) ∧ code ≠ 0 ∧
        ∃ body : List Byte → State → State × Reply, commandBody i = fun pl => gateDev p (body pl) := by
      rcases row with ⟨rfl, rfl⟩ | ⟨rfl, rfl⟩
      · exact ⟨rfl, rfl, by decide, _, rfl⟩
      · exact ⟨rfl, rfl, by decide, fun _ => deviceResetBody p, rfl⟩
    obtain ⟨wf, ends, command, body, gate⟩ := gated
    refine exec_answers wf ends command sent ?_
    rw [gate]
    exact gateDev_of_other other

/-! ### Settings (R111, R129, R131) -/

theorem settings_notMem {i : Instr} (channel : ∀ p rest, i ≠ .setChannel p rest)
    (reset : ∀ p rest, i ≠ .deviceReset p rest) : Field.settings ∉ commandFields i := by
  unfold commandFields
  split
  case h_3 p rest => exact absurd rfl (channel p rest)
  case h_17 p rest => exact absurd rfl (reset p rest)
  all_goals decide

theorem device_notMem {i : Instr} (device : ∀ p rest, i ≠ .setDevice p rest)
    (reset : ∀ p rest, i ≠ .deviceReset p rest) : Field.device ∉ commandFields i := by
  unfold commandFields
  split
  case h_4 p rest => exact absurd rfl (device p rest)
  case h_17 p rest => exact absurd rfl (reset p rest)
  all_goals decide

/-- DEVICE_RESET of a port that does not hold DEV changes nothing (R111). -/
theorem deviceReset_of_other {p : Port} {rest pl : List Byte} {s : State} (other : (s.claim 8).holder ≠ some p) :
    (commandBody (.deviceReset p rest) pl s).1 = s := congrArg Prod.fst (gateDev_of_other other)

theorem setDevice_of_other {p : Port} {rest pl : List Byte} {s : State} (other : (s.claim 8).holder ≠ some p) :
    (commandBody (.setDevice p rest) pl s).1 = s := by
  show (gateDev p (setDeviceBody pl) s).1 = s
  rw [gateDev_of_other other]

theorem storeChannel_chanSettings (c d : Chan) (new : ChanSettings) (s : State) :
    (storeChannel c new s).1.chanSettings d = if c = d then new else s.chanSettings d := by
  unfold storeChannel
  split <;> dsimp only
  · exact reconfigure_chanSettings c d new s
  · exact tuningChange_chanSettings c d new s

/-- The settings of a channel that a SET_CHANNEL changes are its holder's to change (R111). -/
theorem setChannel_chanSettings {p : Port} {rest pl : List Byte} {s : State} {c : Chan}
    (changed : (commandBody (.setChannel p rest) pl s).1.chanSettings c ≠ s.chanSettings c) :
    (s.claim (c.castLE (by decide))).holder = some p := by
  by_contra other
  refine changed ?_
  show (gateChannel p pl (setChannelBody pl) s).1.chanSettings c = _
  unfold gateChannel
  split
  · rfl
  · rename_i d _
    dsimp only
    split
    · rename_i holds
      have apart : d ≠ c := fun here => other (here ▸ holds)
      unfold setChannelBody
      split
      · rw [storeChannel_chanSettings, if_neg apart]
      · rfl
    · rfl

/-- Settles O30: only a gated command writes settings. -/
theorem settingsChangeByHoldersAlone : Obligations.SettingsChangeByHoldersAlone := by
  unfold Obligations.SettingsChangeByHoldersAlone
  intro i p bytes s t ends next
  rcases frameRow_cases ends next with own | ⟨pl, ended, own⟩
  · exact ⟨fun c changed => absurd (own.1.chanSettings_eq (by decide) c) changed,
      fun changed => absurd (own.1 .device (by decide)) changed⟩
  have port {q : Port} {rest : List Byte} : i = .setChannel q rest ∨ i = .setDevice q rest ∨ i = .deviceReset q rest →
      q = p := by
    rintro (rfl | rfl | rfl) <;> cases ends <;> rfl
  have resetByHolder {q : Port} {rest : List Byte} (row : i = .deviceReset q rest)
      (changed : (commandBody i pl (frameEnded p bytes s)).1 ≠ frameEnded p bytes s) :
      (∃ rest, i = .deviceReset p rest) ∧ (s.claim 8).holder = some p := by
    cases port (.inr (.inr row))
    exact ⟨⟨rest, row⟩, by_contra fun other => changed (row ▸ deviceReset_of_other other)⟩
  refine ⟨fun c changed => ?_, fun changed => ?_⟩
  · rw [own.1.chanSettings_eq (by decide), ← ended.1.chanSettings_eq (by decide)] at changed
    by_cases channel : ∃ q rest, i = .setChannel q rest
    · obtain ⟨q, rest, row⟩ := channel
      cases port (.inl row)
      exact .inl ⟨⟨rest, row⟩, setChannel_chanSettings (s := frameEnded p bytes s) (row ▸ changed)⟩
    · by_cases reset : ∃ q rest, i = .deviceReset q rest
      · obtain ⟨q, rest, row⟩ := reset
        exact .inr (resetByHolder row fun same => changed (by rw [same]))
      · exact absurd ((commandBody_fields i pl _).chanSettings_eq (settings_notMem
          (fun q rest row => channel ⟨q, rest, row⟩) fun q rest row => reset ⟨q, rest, row⟩) c) changed
  · have devices : t.device = (commandBody i pl (frameEnded p bytes s)).1.device := own.1 .device (by decide)
    have before : (frameEnded p bytes s).device = s.device := ended.1 .device (by decide)
    rw [devices, ← before] at changed
    by_cases device : ∃ q rest, i = .setDevice q rest
    · obtain ⟨q, rest, row⟩ := device
      cases port (.inr (.inl row))
      exact ⟨.inl ⟨rest, row⟩, by_contra fun other => changed (by rw [row, setDevice_of_other (s := frameEnded p bytes s) other])⟩
    · by_cases reset : ∃ q rest, i = .deviceReset q rest
      · obtain ⟨q, rest, row⟩ := reset
        obtain ⟨row, holds⟩ := resetByHolder row fun same => changed (by rw [same])
        exact ⟨.inr row, holds⟩
      · exact absurd (commandBody_fields i pl _ .device (device_notMem
          (fun q rest row => device ⟨q, rest, row⟩) fun q rest row => reset ⟨q, rest, row⟩)) changed

end Sys2Proof.Machine
end

section
/-! PROOFS. The commands of channels, views, ports and notices, and what each answers (O34, O36 to O40, O42, O47). -/

namespace Sys2Proof.Machine

open Sys2Proof

/-! ### Argument fields (R200, R202) -/

theorem half_of_bytes (w : Half) : w.extractLsb' 8 8 ++ w.extractLsb' 0 8 = w := by
  ext i hi
  rw [BitVec.getElem_append]
  split
  · simp [*]
  · simp [show 8 + (i - 8) = i by omega, BitVec.getLsbD_eq_getElem hi]

theorem word_of_bytes (x : Word) :
    (x.extractLsb' 24 8 ++ x.extractLsb' 16 8 : Half) ++ (x.extractLsb' 8 8 ++ x.extractLsb' 0 8 : Half) = x := by
  ext i hi
  rw [BitVec.getElem_append]
  split
  · rw [BitVec.getElem_append]
    split
    · simp [*]
    · simp [show 8 + (i - 8) = i by omega, BitVec.getLsbD_eq_getElem hi]
  · rw [BitVec.getElem_append]
    split
    · simp [show 16 + (i - 16) = i by omega, BitVec.getLsbD_eq_getElem hi]
    · simp [show 24 + (i - 16 - 8) = i by omega, BitVec.getLsbD_eq_getElem hi]

/-! ### The commands that run for a channel (R111, R200) -/

section
variable {p : Port} {tagByte : Byte} {rest : List Byte} {s : State}

/-- A channel above 7 is refused by the commands without a gate. -/
theorem exec_of_channel_above {i : Instr} {code b : Byte} {body : List Byte → Chan → State → State × Reply}
    (wf : i.wellFormed = true) (ends : frameOf i = some (p, code :: rest)) (command : code ≠ 0)
    (runs : commandBody i = fun pl => withChannel pl (body pl)) (above : 7 < b.toNat) {pl : List Byte}
    (sent : Dispatched p code tagByte (b :: pl) rest s) :
    exec i s = .next (answered p tagByte .badArgument [] (frameEnded p (code :: rest) s)) := by
  refine exec_answers wf ends command sent ?_
  rw [runs]
  exact withChannel_above above pl _ _

/-! ### READ_CHANNEL (R129, R130) -/

theorem levelsByte_eq (v : Levels) :
    levelsByte v = Level.code v.a + 2 * Level.code v.b + 4 * Level.code v.z := by
  obtain ⟨a, b, z⟩ := v
  cases a <;> cases b <;> cases z <;> rfl

theorem engineMarks_eq (e : Engine) : engineMarks e = yesNo e.referenced + 2 * yesNo e.homingArmed := by
  unfold engineMarks
  cases e.referenced <;> cases e.homingArmed <;> rfl

theorem countField_eq (mode : Mode) (e : Engine) :
    countField mode e = if mode = .quad then e.position else if mode = .tally then e.runningCount else 0 := by
  cases mode <;> rfl

/-- Settles O34. -/
theorem readChannelReportsLiveState : Obligations.ReadChannelReportsLiveState := by
  unfold Obligations.ReadChannelReportsLiveState
  intro p tagByte rest s
  refine ⟨fun b sent above => exec_of_channel_above (body := fun _ => readChannelBody) rfl rfl (by decide) rfl above sent,
    fun c sent => exec_answers rfl rfl (by decide) sent ((withChannel_chan c [] readChannelBody _).trans ?_)⟩
  unfold readChannelBody
  dsimp only
  rw [levelsByte_eq, engineMarks_eq, countField_eq]
  rfl

/-! ### SET_PORT (R170) -/

theorem kindCode_lt (k : NoticeKind) : k.code < 12 := by cases k <;> decide

theorem hasKind_setWidth (w : Half) (k : NoticeKind) : hasKind (w.setWidth 12) k = w.getLsbD k.code := by
  simp [hasKind, kindCode_lt k]

theorem setPortBody_accepted (p : Port) {w : Half} (small : w.toNat < 4096) (s : State) :
    setPortBody p (le2 w) s =
      ((s.setWakeSet p (w.setWidth 12)).setIntLevel p (lineLevel (s.queue p).notices (w.setWidth 12)),
        okReply (le2 w ++ [byteOf (s.queue p).notices.length,
          Level.code (lineLevel (s.queue p).notices (w.setWidth 12))])) := by
  have read : halfAt (le2 w) 0 = w := half_of_bytes w
  have evaluated : evalLine p (s.setWakeSet p (w.setWidth 12)) =
      (s.setWakeSet p (w.setWidth 12)).setIntLevel p (lineLevel (s.queue p).notices (w.setWidth 12)) := by
    rw [evalLine, State.wakeSet_setWakeSet_self, State.setWakeSet_queue]
  simp only [setPortBody, read, if_pos small, evaluated, State.setIntLevel_queue, State.setWakeSet_queue,
    State.intLevel_setIntLevel_self]

/-- Settles O36. -/
theorem setPortStoresWakeSet : Obligations.SetPortStoresWakeSet := by
  unfold Obligations.SetPortStoresWakeSet
  intro p tagByte w rest s sent small
  refine ⟨lineLevel (s.queue p).notices (w.setWidth 12),
    exec_answers rfl rfl (by decide) sent (setPortBody_accepted p small _), ?_⟩
  simp only [lineLevel_eq_low, hasKind_setWidth]

/-! ### FETCH (R166, R171) -/

theorem fetchBody_accepted (p : Port) {max : Byte} (pos : 1 ≤ max.toNat) (few : max.toNat ≤ 4) (s : State) {k : Nat}
    (taken : k = min max.toNat (s.queue p).notices.length) {q : Queue}
    (left : q = appendLoss s.now { s.queue p with notices := (s.queue p).notices.drop k }) :
    fetchBody p [max] s =
      ((s.setQueue p q).setIntLevel p (lineLevel q.notices (s.wakeSet p)),
        okReply ([byteOf k, byteOf q.notices.length] ++ (((s.queue p).notices.take k).map noticeBytes).flatten)) := by
  subst taken left
  have evaluated (q : Queue) : evalLine p (s.setQueue p q) =
      (s.setQueue p q).setIntLevel p (lineLevel q.notices (s.wakeSet p)) := by
    rw [evalLine, State.queue_setQueue_self, State.setQueue_wakeSet]
  rw [← evaluated]
  exact if_pos (show 1 ≤ (byteAt [max] 0).toNat ∧ (byteAt [max] 0).toNat ≤ 4 from ⟨pos, few⟩)

/-- Settles O47. -/
theorem fetchRemovesOldestNotices : Obligations.FetchRemovesOldestNotices := by
  unfold Obligations.FetchRemovesOldestNotices
  intro p tagByte max rest s sent pos few
  refine ⟨_, _, _, rfl, ?_, lineLevel_eq_low _ _,
    exec_answers rfl rfl (by decide) sent (fetchBody_accepted p pos few _ rfl rfl)⟩
  unfold appendLoss
  rfl

/-! ### PRESET, HOME, HOME_CANCEL (R33, R36, R37) -/

/-- What a position change tells a port (R88). -/
theorem Account.position_queue (c : Chan) (time : Tick) (pos : Word) (a : Account) :
    (Account.position c time pos a).queue =
      a.queue.told (a.view.windowOn && hasKind a.view.subs .window &&
        decide (a.view.windowState ≠ some (windowStateOf a.view.low a.view.high pos)))
        { kind := .window, source := .channel c, time := time, value := pos
          aux := windowAux a.view.windowState (some (windowStateOf a.view.low a.view.high pos)) } := by
  unfold Account.position
  split
  · rename_i moved
    simp only [Account.news, moved.1, decide_eq_true moved.2, Bool.true_and, Bool.and_true]
  · rename_i still
    cases on : a.view.windowOn with
    | false => rfl
    | true =>
      have same : ¬ a.view.windowState ≠ some (windowStateOf a.view.low a.view.high pos) :=
        fun ne => still ⟨on, ne⟩
      rw [decide_eq_false same, Bool.and_false]
      rfl

theorem preset_effect (c : Chan) (pos : Word) (s : State) :
    ChannelEffect c s (positionChange c (clearReferenced c 2 (s.setEngine c { s.engine c with position := pos })))
      { s.engine c with position := pos, referenced := false } (s.ring c)
      (fun q => Account.position c s.now pos
        (if (s.engine c).referenced then Account.news c s.now .referenceLost pos 2 (s.account q c)
        else s.account q c)) :=
  (((ChannelEffect.refl c s).setEngine { s.engine c with position := pos }).clearReferenced 2).position

/-- Settles O37. -/
theorem presetSetsPosition : Obligations.PresetSetsPosition := by
  unfold Obligations.PresetSetsPosition
  intro p tagByte c v rest s sent holds
  have runs : commandBody (.preset p rest) (byteOf c.val :: le4 v) (frameEnded p (0x30 :: rest) s) =
      presetBody (byteOf c.val :: le4 v) c (frameEnded p (0x30 :: rest) s) := gateChannel_of_holder rfl holds
  refine ⟨fun other => exec_answers rfl rfl (by decide) sent (runs.trans (presetBody_of_other other)), fun quad => ?_⟩
  have read : wordAt (byteOf c.val :: le4 v) 1 = v := word_of_bytes v
  have ran := runs.trans (presetBody_of_quad quad)
  rw [read] at ran
  have effect := preset_effect c v (frameEnded p (0x30 :: rest) s)
  refine ⟨_, exec_answers rfl rfl (by decide) sent ran, effect.engine, fun d apart => (effect.others d apart).1,
    fun q d => ?_, fun q => ?_, effect.only_of_ring⟩
  · rw [preset_view]
    by_cases here : d = c
    · subst here
      rw [if_pos rfl, View.afterPosition]
      simp only [true_and]
      rfl
    · rw [if_neg (Ne.symm here), if_neg fun h => here h.1]
      rfl
  · have queue := congrArg Account.queue (effect.account q)
    rw [Account.position_queue] at queue
    refine queue.trans ?_
    rw [show (frameEnded p (0x30 :: rest) s).engine c = s.engine c from rfl]
    cases (s.engine c).referenced <;> rfl

/-- Settles O38. -/
theorem homeArmsAndCancelDisarms : Obligations.HomeArmsAndCancelDisarms := by
  unfold Obligations.HomeArmsAndCancelDisarms
  intro p tagByte c rest s holds
  have home : commandBody (.home p rest) [byteOf c.val] (frameEnded p (0x31 :: rest) s) =
      homeBody c (frameEnded p (0x31 :: rest) s) := gateChannel_of_holder rfl holds
  have cancel : commandBody (.homeCancel p rest) [byteOf c.val] (frameEnded p (0x32 :: rest) s) =
      homeCancelBody c (frameEnded p (0x32 :: rest) s) := gateChannel_of_holder rfl holds
  refine ⟨fun sent => ⟨fun able => ?_, fun unable => ?_⟩, fun sent => ?_⟩
  · exact exec_answers rfl rfl (by decide) sent (home.trans (if_pos able))
  · exact exec_answers rfl rfl (by decide) sent (home.trans (if_neg unable))
  · exact exec_answers rfl rfl (by decide) sent cancel

/-! ### TAKE and PEEK_VIEW (R81, R83) -/

theorem takeMarks_eq (v : View) : takeMarks v = yesNo v.eventSat + 2 * yesNo v.faultSat := by
  unfold takeMarks
  cases v.eventSat <;> cases v.faultSat <;> rfl

theorem aboveMarks_eq (v : View) : aboveMarks v = yesNo v.eventAbove + 2 * yesNo v.faultAbove := by
  unfold aboveMarks
  cases v.eventAbove <;> cases v.faultAbove <;> rfl

theorem peekMarks_eq (v : View) :
    peekMarks v = yesNo v.eventSat + 2 * yesNo v.faultSat + 4 * yesNo v.eventAbove + 8 * yesNo v.faultAbove
      + 16 * yesNo v.windowOn + 32 * yesNo v.overrun := by
  have marks : ∀ a b c d e f : Bool, markBits [a, b, c, d, e, f] =
      yesNo a + 2 * yesNo b + 4 * yesNo c + 8 * yesNo d + 16 * yesNo e + 32 * yesNo f := by decide
  exact marks _ _ _ _ _ _

/-- Settles O39. -/
theorem takeAndPeekReportView : Obligations.TakeAndPeekReportView := by
  unfold Obligations.TakeAndPeekReportView
  intro p tagByte rest s
  refine ⟨fun b above => ⟨exec_of_channel_above (body := fun _ => takeBody p) rfl rfl (by decide) rfl above,
    exec_of_channel_above (body := fun _ => peekViewBody p) rfl rfl (by decide) rfl above⟩, fun c sent => ?_,
    fun c sent => ?_⟩
  · refine exec_answers rfl rfl (by decide) sent ((withChannel_chan c [] (takeBody p) _).trans ?_)
    unfold takeBody
    dsimp only
    rw [takeMarks_eq]
    rfl
  · refine exec_answers rfl rfl (by decide) sent ((withChannel_chan c [] (peekViewBody p) _).trans ?_)
    unfold peekViewBody
    dsimp only
    rw [peekMarks_eq]
    rfl

/-! ### SET_VIEW (R84, R85, R86) -/

theorem viewSettingsOf_bytes (b : Byte) (et : Word) (ft : Half) (on : Bool) {low high : Word}
    (ordered : low.toInt ≤ high.toInt) (subs : BitVec 7) :
    viewSettingsOf (b :: le4 et ++ le2 ft ++ [yesNo on] ++ le4 low ++ le4 high ++ [subs.setWidth 8]) =
      some { eventThreshold := et, faultThreshold := ft, windowOn := on, low := low, high := high, subs := subs } := by
  generalize payload : b :: le4 et ++ le2 ft ++ [yesNo on] ++ le4 low ++ le4 high ++ [subs.setWidth 8] = pl
  have enable : byteAt pl 7 = yesNo on := by rw [← payload]; rfl
  have kinds : byteAt pl 16 = subs.setWidth 8 := by rw [← payload]; rfl
  have event : wordAt pl 1 = et := by rw [← payload]; exact word_of_bytes et
  have fault : halfAt pl 5 = ft := by rw [← payload]; exact half_of_bytes ft
  have lowest : wordAt pl 8 = low := by rw [← payload]; exact word_of_bytes low
  have highest : wordAt pl 12 = high := by rw [← payload]; exact word_of_bytes high
  have accepted : ¬ (high.slt low ∨ 128 ≤ (subs.setWidth 8 : Byte).toNat) := by
    rw [BitVec.slt_iff_toInt_lt, BitVec.toNat_setWidth]
    omega
  have kept : (subs.setWidth 8 : Byte).setWidth 7 = subs := by bv_omega
  unfold viewSettingsOf
  rw [enable, boolOf_yesNo]
  simp only [lowest, highest, kinds, event, fault, if_neg accepted, kept]

/-- A notice of a channel for one port, told where a mark becomes set (R85, R90). -/
theorem deliverIf_queue (set : Bool) (p q : Port) (c : Chan) (k : NoticeKind) (value aux : Word) (s : State) :
    (if set then deliver p c k value aux s else s).queue q =
      (s.queue q).told (decide (p = q) && (set && hasKind (s.view p c).subs k))
        { kind := k, source := .channel c, time := s.now, value, aux } := by
  cases set with
  | false => simp [Queue.told]
  | true => by_cases here : p = q <;> simp [here, Queue.told, deliver_queue]

theorem tellAboveMarks_queue (p q : Port) (c : Chan) (w : ViewSettings) (v : View) (s : State) :
    (tellAboveMarks p c w v s).queue q =
      ((s.queue q).told (decide (p = q) && (isAbove w.eventThreshold v.eventDelta && !v.eventAbove &&
          hasKind (s.view p c).subs .threshold))
        { kind := .threshold, source := .channel c, time := s.now, value := v.eventDelta
          aux := w.eventThreshold }).told
        (decide (p = q) && (isAbove w.faultThreshold v.faultDelta && !v.faultAbove &&
          hasKind (s.view p c).subs .faultThreshold))
        { kind := .faultThreshold, source := .channel c, time := s.now
          value := v.faultDelta.setWidth 32, aux := w.faultThreshold.setWidth 32 } := by
  unfold tellAboveMarks
  dsimp only
  have only : SameExcept [.queues, .intLine] s
      (if isAbove w.eventThreshold v.eventDelta && !v.eventAbove then
        deliver p c .threshold v.eventDelta w.eventThreshold s else s) :=
    SameExcept.ite (deliver_only _ _ _ _ _ _) (.refl _ s)
  have view := only.view_eq (by decide) p c
  have now : _ = s.now := only .now (by decide)
  rw [deliverIf_queue, view, now, deliverIf_queue]

theorem storeView_queue (p q : Port) (c : Chan) (w : ViewSettings) (s : State) :
    (storeView p c w s).queue q =
      (tellAboveMarks p c w (s.view p c) (s.setView p c ((s.view p c).marked w))).queue q := by
  rw [storeView_eq, State.setView_queue]

/-- The view that SET_VIEW leaves, with its window state spelt out (R86). -/
theorem View.stored_eq (w : ViewSettings) (mode : Mode) (pos : Word) (v : View) :
    v.stored w mode pos = { v with
      eventThreshold := w.eventThreshold, faultThreshold := w.faultThreshold, windowOn := w.windowOn
      low := w.low, high := w.high, subs := w.subs
      eventAbove := decide (w.eventThreshold ≠ 0 ∧ w.eventThreshold < v.eventDelta)
      faultAbove := decide (w.faultThreshold ≠ 0 ∧ w.faultThreshold < v.faultDelta)
      windowState := if w.windowOn = true ∧ mode = .quad then some (windowStateOf w.low w.high pos) else none } := by
  simp only [View.stored, windowStateFor, View.withSettings, isAbove, Bool.and_eq_true, beq_iff_eq]

theorem setViewBody_accepted {p : Port} {pl : List Byte} {w : ViewSettings} (read : viewSettingsOf pl = some w)
    (c : Chan) (s : State) :
    setViewBody p pl c s = (storeView p c w s,
      okReply [aboveMarks ((s.view p c).stored w (s.chanSettings c).mode (s.engine c).position),
        windowCode ((s.view p c).stored w (s.chanSettings c).mode (s.engine c).position).windowState]) := by
  simp only [setViewBody, read, storeView_view, and_self, if_true]

/-- Settles O40. -/
theorem setViewStoresSettings : Obligations.SetViewStoresSettings := by
  unfold Obligations.SetViewStoresSettings
  intro p tagByte c et ft on low high subs rest s sent ordered
  generalize settings : ({ eventThreshold := et, faultThreshold := ft, windowOn := on, low := low, high := high
                           subs := subs } : ViewSettings) = w
  have read := viewSettingsOf_bytes (byteOf c.val) et ft on ordered subs
  rw [settings] at read
  have ran : commandBody (.setView p rest) _ (frameEnded p (0x42 :: rest) s) = _ :=
    (withChannel_chan c _ (setViewBody p _) _).trans (setViewBody_accepted read c _)
  rw [aboveMarks_eq] at ran
  refine ⟨_, _, exec_answers rfl rfl (by decide) sent ran, ?_, ?_, fun q d other => ?_, fun q => ?_, storeView_only _ _ _ _⟩
  · rw [View.stored_eq, ← settings]
    rfl
  · rw [storeView_view, if_pos ⟨rfl, rfl⟩]
  · rw [storeView_view, if_neg fun here => other ⟨here.1.symm, here.2.symm⟩]
    rfl
  · rw [storeView_queue, tellAboveMarks_queue, State.view_setView_self, ← settings]
    by_cases here : q = p
    · subst here
      simp only [decide_true, Bool.true_and, if_true]
      rfl
    · rw [if_neg here, decide_eq_false (Ne.symm here)]
      rfl

/-! ### The reach of the view commands (R68, R80) -/

theorem withChannel_view {pl : List Byte} {body : Chan → State → State × Reply} {q : Port} {d : Chan}
    (others : ∀ c s, (body c s).1.view q d = s.view q d) (s : State) :
    (withChannel pl body s).1.view q d = s.view q d := by
  unfold withChannel
  split
  · rfl
  · exact others _ s

/-- Settles O42. -/
theorem viewCommandsReachOwnViewsOnly : Obligations.ViewCommandsReachOwnViewsOnly := by
  unfold Obligations.ViewCommandsReachOwnViewsOnly
  intro i p rest s t row next
  have command : (∃ code, frameOf i = some (p, code :: rest)) ∧
      (∀ f, f ∈ commandFields i → f ∈ [Field.views, .queues, .intLine]) ∧
      ∀ q d, q ≠ p → ∀ pl u, (commandBody i pl u).1.view q d = u.view q d := by
    have stays (v : Chan → State → View) {q : Port} {d c : Chan} (apart : q ≠ p) (u : State) :
        (u.setView p c (v c u)).view q d = u.view q d := by
      rw [State.view_setView, if_neg fun here => apart here.1.symm]
    rcases row with rfl | rfl | rfl | rfl
    · refine ⟨⟨_, rfl⟩, by simp [commandFields], fun q d apart pl u => withChannel_view (fun c u => ?_) u⟩
      exact stays (fun c u => (u.view p c).zeroed u.now) apart u
    · exact ⟨⟨_, rfl⟩, by simp [commandFields], fun q d apart pl u => withChannel_view (fun c u => rfl) u⟩
    · refine ⟨⟨_, rfl⟩, by simp [commandFields], fun q d apart pl u => withChannel_view (fun c u => ?_) u⟩
      unfold setViewBody
      split
      · rfl
      · dsimp only
        rw [storeView_view, if_neg fun here => apart here.1.symm]
    · refine ⟨⟨_, rfl⟩, by simp [commandFields], fun q d apart pl u => withChannel_view (fun c u => ?_) u⟩
      unfold drainBody
      dsimp only
      split
      · rw [State.view_setView, if_neg fun here => apart here.1.symm]
      · rfl
  obtain ⟨⟨code, ends⟩, fields, views⟩ := command
  rcases frameRow_cases ends next with own | ⟨pl, ended, own⟩
  · exact ⟨fun q c _ => own.1.view_eq (by decide) q c, own.1.mono (by decide)⟩
  · refine ⟨fun q c apart => ?_, ?_⟩
    · rw [own.1.view_eq (by decide), views q c apart, ended.1.view_eq (by decide)]
    · exact ((ended.1.mono (by decide)).trans ((commandBody_fields i pl _).mono fun f mem =>
        (show ∀ f, f ∈ [Field.views, .queues, .intLine] →
          f ∈ [Field.views, .ports, .claims, .queues, .intLine, .freeCount] by decide) f (fields f mem))).trans
        (own.1.mono (by decide))

end

end Sys2Proof.Machine
end

section
/-! PROOFS. The settings commands: SET_CHANNEL and SET_DEVICE (O31, O32, O35). -/

namespace Sys2Proof.Machine

open Sys2Proof

/-! ### Settings records read as they were written (R200, R204) -/

theorem modeOf_code (m : Mode) : modeOf (Mode.code m) = some m := by cases m <;> rfl

theorem resolutionOf_code (r : Resolution) : resolutionOf (Resolution.code r) = some r := by cases r <;> rfl

theorem tallyEdgeOf_code (e : TallyEdge) : tallyEdgeOf (TallyEdge.code e) = some e := by cases e <;> rfl

theorem gateOf_code (g : Gate) : gateOf (Gate.code g) = some g := by cases g <;> rfl

theorem spanEdgeOf_code (e : SpanEdge) : spanEdgeOf (SpanEdge.code e) = some e := by cases e <;> rfl

theorem capEdgeOf_code (e : CapEdge) : capEdgeOf (CapEdge.code e) = some e := by cases e <;> rfl

theorem levelOf_code (v : Level) : levelOf (Level.code v) = some v := by cases v <;> rfl

theorem quadrantOf_code (q : Option AB) : quadrantOf (quadrantCode q) = some q := by
  cases q with
  | none => rfl
  | some ab =>
    obtain ⟨a, b⟩ := ab
    cases a <;> cases b <;> rfl

theorem chanSettingsAt_bytes (b : Byte) (r : ChanSettings) : chanSettingsAt (b :: chanSettingsBytes r) 1 = some r := by
  obtain ⟨mode, filterStep, resolution, invert, tallyEdge, gate, spanEdge, widthLevel, quadrant, polarity, home⟩ := r
  generalize payload : b :: chanSettingsBytes
    ⟨mode, filterStep, resolution, invert, tallyEdge, gate, spanEdge, widthLevel, quadrant, polarity, home⟩ = pl
  have h1 : byteAt pl 1 = Mode.code mode := by rw [← payload]; rfl
  have h2 : byteAt pl (1 + 1) = byteOf filterStep.val := by rw [← payload]; rfl
  have h3 : byteAt pl (1 + 2) = Resolution.code resolution := by rw [← payload]; rfl
  have h4 : byteAt pl (1 + 3) = yesNo invert := by rw [← payload]; rfl
  have h5 : byteAt pl (1 + 4) = TallyEdge.code tallyEdge := by rw [← payload]; rfl
  have h6 : byteAt pl (1 + 5) = Gate.code gate := by rw [← payload]; rfl
  have h7 : byteAt pl (1 + 6) = SpanEdge.code spanEdge := by rw [← payload]; rfl
  have h8 : byteAt pl (1 + 7) = Level.code widthLevel := by rw [← payload]; rfl
  have h9 : byteAt pl (1 + 8) = quadrantCode quadrant := by rw [← payload]; rfl
  have h10 : byteAt pl (1 + 9) = Level.code polarity := by rw [← payload]; rfl
  have value : wordAt pl (1 + 10) = home := by rw [← payload]; exact word_of_bytes home
  unfold chanSettingsAt
  rw [h1, h2, h3, h4, h5, h6, h7, h8, h9, h10, value, modeOf_code, finOf_byteOf_val (by decide), resolutionOf_code,
    boolOf_yesNo, tallyEdgeOf_code, gateOf_code, spanEdgeOf_code, levelOf_code, quadrantOf_code, levelOf_code]
  rfl

theorem deviceSettingsAt_bytes {d : DeviceSettings} (some_quota : 1 ≤ d.quota.toNat) (most : d.quota.toNat ≤ 24) :
    deviceSettingsAt (deviceSettingsBytes d) 0 = some d := by
  obtain ⟨period, quota, capEdge, step⟩ := d
  have edges : #v[tget capEdge 0, tget capEdge 1] = capEdge := by
    ext i hi
    interval_cases i <;> rfl
  have read : deviceSettingsAt (deviceSettingsBytes ⟨period, quota, capEdge, step⟩) 0 =
      (do let cap0 ← capEdgeOf (CapEdge.code (tget capEdge 0))
          let cap1 ← capEdgeOf (CapEdge.code (tget capEdge 1))
          let step ← finOf 8 (byteOf step.val)
          return { leasePeriod := period, quota := quota, capEdge := #v[cap0, cap1], lineFilterStep := step }) :=
    if_pos ⟨some_quota, most⟩
  rw [read, capEdgeOf_code, capEdgeOf_code, finOf_byteOf_val (by decide)]
  exact congrArg (fun e => some (DeviceSettings.mk period quota e step)) edges

/-! ### Snapshots that lose their source (R149) -/

section
variable {cause : SnapSource → Option Word} {slot : Slot} {sn : Snapshot} {stale : List Chan} {due : Option Tick}

theorem toldOfLost_eq {s u : State} (slots : ∀ i, u.slot i = s.slot i) (now : u.now = s.now)
    (cause : SnapSource → Option Word) (p : Port) (q : Queue) :
    q.toldOfSlots u p (lostNotice cause u) = q.toldOfSlots s p (lostNotice cause s) := by
  have news : lostNotice cause u = lostNotice cause s := by
    funext i sn stale
    simp only [lostNotice, slots, now]
  rw [news]
  simp only [Queue.toldOfSlots, slots]

/-- Where no source is lost, no port is told of one. -/
theorem toldOfLost_none (s : State) (p : Port) (q : Queue) :
    q.toldOfSlots s p (lostNotice (fun _ => none) s) = q := by
  have silent : ∀ l : List SlotIdx, l.foldl (fun q i => (s.slot i).tell (lostNotice (fun _ => none) s i) p q) q = q := by
    intro l
    induction l with
    | nil => rfl
    | cons i l ih =>
      have one : (s.slot i).tell (lostNotice (fun _ => none) s i) p q = q := by
        rcases (s.slot i).armed_or_not with ⟨sn, stale, due, body, armed⟩ | none
        · rw [Slot.tell_of_armed body armed]
          rfl
        · rw [Slot.tell_of_not_armed none]
      rw [List.foldl_cons, one, ih]
  exact silent (List.finRange 24)

end

theorem tuningChange_queue (c : Chan) (new : ChanSettings) (q : Port) (s : State) :
    (tuningChange c new s).queue q =
      (s.queue q).toldOfSlots s q (lostNotice (tuningCause c (s.chanSettings c) new) s) := by
  have kept (none : ∀ src, tuningCause c (s.chanSettings c) new src = none) :
      (s.queue q).toldOfSlots s q (lostNotice (tuningCause c (s.chanSettings c) new) s) = s.queue q := by
    rw [show tuningCause c (s.chanSettings c) new = fun _ => Option.none from funext none, toldOfLost_none]
  unfold tuningChange
  dsimp only
  by_cases quad : new.mode = .quad
  · rw [if_pos quad]
    by_cases lost : (s.chanSettings c).indexQuadrant ≠ none ∧ new.indexQuadrant = none
    · have cause : tuningCause c (s.chanSettings c) new = fun src => if src = .index c then some 3 else none := by
        funext src
        simp only [tuningCause, quad, lost.1, lost.2, ne_eq, not_false_eq_true, true_and]
      rw [if_pos lost, loseIndexSource_queue, cause]
      exact toldOfLost_eq (fun _ => rfl) rfl _ q _
    · rw [if_neg lost, kept fun src => if_neg fun h => lost ⟨h.2.1, h.2.2.1⟩]
      split <;> rfl
  · rw [if_neg quad, kept fun src => if_neg fun h => quad h.1]
    rfl

theorem storeDevice_queue (new : DeviceSettings) (q : Port) (s : State) :
    (storeDevice new s).queue q = (s.queue q).toldOfSlots s q (lostNotice (lineCause s.device new) s) := by
  have counts : ∀ u, SameExcept [.caps] u
      (if s.device.lineFilterStep ≠ new.lineFilterStep then restartCap 1 (restartCap 0 u) else u) :=
    fun u => SameExcept.ite ((restartCap_only 0 u).trans (restartCap_only 1 _)) (SameExcept.refl _ _)
  have leases : SameExcept [.device, .claims] s
      (if s.device.leasePeriod ≠ new.leasePeriod then forResources relength (s.setDevice new)
        else s.setDevice new) :=
    ((setDevice_only s new).mono (by decide)).trans
      (SameExcept.ite ((SameExcept.forResources relength_only _).mono (by decide)) (SameExcept.refl _ _))
  unfold storeDevice
  refine ((counts _).queue_eq (by decide) q).trans ((forSlots_loseLineSource_queue _ _ q _).trans ?_)
  rw [leases.queue_eq (by decide)]
  exact toldOfLost_eq (leases.slot_eq (by decide)) (leases .now (by decide)) _ q _

/-! ### RECONFIGURED (R92) -/

/-- A port's account of a channel that is reconfigured: RECONFIGURED where the view held counts or unread entries or
subscribes, then the zeroing. -/
def Account.reconfigured (c : Chan) (now : Tick) (pos : Word) (unread : Word) (old new : Mode) (a : Account) : Account :=
  { view := a.view.reconfigured new now pos
    queue := a.queue.told
      (decide (a.view.eventDelta ≠ 0 ∨ a.view.faultDelta ≠ 0 ∨ unread ≠ 0 ∨ a.view.subs.getLsbD 6 = true))
      { kind := .reconfigured, source := .channel c, time := now, value := a.view.eventDelta
        aux := reconfiguredAux a.view.faultDelta unread a.view.eventSat a.view.faultSat old new } }

theorem reconfigureView_account (c : Chan) (old new : Mode) (unread : Word) (p q : Port) (s : State) :
    (reconfigureView c old new unread p s).account q c =
      if p = q then (s.account q c).reconfigured c s.now (s.engine c).position unread old new else s.account q c := by
  have queue : (reconfigureView c old new unread p s).queue q =
      if p = q then ((s.account q c).reconfigured c s.now (s.engine c).position unread old new).queue
      else s.queue q := by
    unfold reconfigureView Account.reconfigured
    dsimp only
    rw [State.setView_queue]
    by_cases here : p = q
    · subst here
      split
      · rename_i tells
        rw [handNotice_queue, if_pos rfl, if_pos rfl]
        exact (if_pos (decide_eq_true tells)).symm
      · rename_i silent
        rw [if_pos rfl]
        exact (if_neg fun tells => silent (of_decide_eq_true tells)).symm
    · rw [if_neg here]
      split
      · rw [handNotice_queue, if_neg here]
      · rfl
  rw [State.account, reconfigureView_view, queue]
  by_cases here : p = q
  · rw [if_pos ⟨here, rfl⟩, if_pos here, if_pos here]
    rfl
  · rw [if_neg fun h => here h.1, if_neg here, if_neg here]
    rfl

/-- An action on each port that makes of its own port's account of a channel what `F` says of that port, and leaves the
other accounts and all that `F` reads. -/
theorem forPorts_account_own {γ : Type} {f : Port → State → State} {read : State → γ} {F : γ → Port → Account → Account}
    {c : Chan}
    (own : ∀ p q s, (f p s).account q c = if p = q then F (read s) p (s.account q c) else s.account q c)
    (same : ∀ p s, read (f p s) = read s) (q : Port) (s : State) :
    (forPorts f s).account q c = F (read s) q (s.account q c) := by
  unfold forPorts
  simp only [own, same]
  fin_cases q <;> simp

theorem forPorts_reconfigureView_account (c : Chan) (old new : Mode) (unread : Port → Word) (q : Port) (s : State) :
    (forPorts (fun p => reconfigureView c old new (unread p) p) s).account q c =
      (s.account q c).reconfigured c s.now (s.engine c).position (unread q) old new :=
  forPorts_account_own (read := fun s => (s.now, (s.engine c).position))
    (F := fun r p a => a.reconfigured c r.1 r.2 (unread p) old new)
    (fun p => reconfigureView_account c old new (unread p) p)
    (fun p s => by
      have only := reconfigureView_only c old new (unread p) p s
      rw [only.engine_eq (by decide), show (reconfigureView c old new (unread p) p s).now = s.now from
        only .now (by decide)]) q s

theorem forPorts_reconfigureView_queue (c : Chan) (old new : Mode) (unread : Port → Word) (q : Port) (s : State) :
    (forPorts (fun p => reconfigureView c old new (unread p) p) s).queue q =
      ((s.account q c).reconfigured c s.now (s.engine c).position (unread q) old new).queue := by
  rw [← forPorts_reconfigureView_account, State.account]

theorem reconfigure_queue (c : Chan) (new : ChanSettings) (q : Port) (s : State) :
    (reconfigure c new s).queue q =
      Queue.toldOfSlots s q (lostNotice (reconfigureCause c new) s)
        ((s.account q c).reconfigured c s.now 0 (s.unread q c) (s.chanSettings c).mode new.mode).queue := by
  have base := reconfigureBase_only c new s
  have emptied := emptyRing_only c (reconfigureBase c new s)
  have now : (emptyRing c (reconfigureBase c new s)).now = s.now :=
    (emptied .now (by decide)).trans (base .now (by decide))
  have views := SameExcept.forPorts
    (fun p u => reconfigureView_only c (s.chanSettings c).mode new.mode (s.unread p c) p u)
    (emptyRing c (reconfigureBase c new s))
  have zero : ((emptyRing c (reconfigureBase c new s)).engine c).position = 0 := by
    rw [emptied.engine_eq (by decide), reconfigureBase_engine]
    rfl
  have view : (emptyRing c (reconfigureBase c new s)).view q c =
      { s.view q c with cursor := ((reconfigureBase c new s).ring c).next } := by
    rw [emptyRing_view, if_pos rfl, base.view_eq (by decide)]
  have slots (i : SlotIdx) : (emptyRing c (reconfigureBase c new s)).slot i = s.slot i := by
    rw [emptied.slot_eq (by decide), base.slot_eq (by decide)]
  have told := forPorts_reconfigureView_queue c (s.chanSettings c).mode new.mode (fun p => s.unread p c) q
    (emptyRing c (reconfigureBase c new s))
  rw [now, zero, State.account, view, emptied.queue_eq (by decide), base.queue_eq (by decide)] at told
  rw [reconfigure_eq, forSlots_reconfigureSlot_queue, told]
  exact toldOfLost_eq (fun i => (views.slot_eq (by decide) i).trans (slots i)) ((views .now (by decide)).trans now) _ q _

/-! ### SET_CHANNEL (R118, R120 to R124) -/

theorem setChannel_runs {p : Port} {c : Chan} {rest : List Byte} {s : State} (new : ChanSettings)
    (holds : (s.claim (c.castLE (by decide))).holder = some p) :
    commandBody (.setChannel p rest) (byteOf c.val :: chanSettingsBytes new) (frameEnded p (0x20 :: rest) s) =
      storeChannel c new (frameEnded p (0x20 :: rest) s) := by
  refine (gateChannel_of_holder (pl := byteOf c.val :: chanSettingsBytes new)
    (body := setChannelBody (byteOf c.val :: chanSettingsBytes new)) (s := frameEnded p (0x20 :: rest) s) (c := c)
    rfl holds).trans ?_
  simp only [setChannelBody, chanSettingsAt_bytes]

theorem storeChannel_of_tuning {c : Chan} {new : ChanSettings} {s : State}
    (tunes : structuralDiffers (s.chanSettings c) new = false) :
    storeChannel c new s = (tuningChange c new s, okReply (le2 (s.engine c).generation ++ [0])) := by
  have generation : ((tuningChange c new s).engine c).generation = (s.engine c).generation := by
    rw [tuningChange_engine, if_pos rfl, Engine.tuned]
    split
    · split
      · rfl
      · split <;> rfl
    · rfl
  simp only [storeChannel, tunes, Bool.false_eq_true, if_false, generation]

theorem storeChannel_of_structural {c : Chan} {new : ChanSettings} {s : State}
    (differs : structuralDiffers (s.chanSettings c) new = true) :
    storeChannel c new s = (reconfigure c new s, okReply (le2 ((s.engine c).generation + 1) ++ [1])) := by
  have generation : ((reconfigure c new s).engine c).generation = (s.engine c).generation + 1 := by
    rw [reconfigure_engine, if_pos rfl]
    rfl
  simp only [storeChannel, differs, if_true, generation]

/-- The engine of a tuning change as R121 and R122 give it. -/
theorem Engine.tuned_eq (old new : ChanSettings) (l : ChanLines) (e : Engine) :
    e.tuned old new l =
      if new.mode = .quad ∧ (old.indexQuadrant ≠ new.indexQuadrant ∨ old.indexPolarity ≠ new.indexPolarity) then
        { e with
          indexCond := indexCondition new l
          homingArmed := e.homingArmed && !decide (old.indexQuadrant ≠ none ∧ new.indexQuadrant = none) }
      else e := by
  unfold Engine.tuned
  by_cases quad : new.mode = .quad
  · rw [if_pos quad]
    by_cases lost : old.indexQuadrant ≠ none ∧ new.indexQuadrant = none
    · have differs : old.indexQuadrant ≠ new.indexQuadrant := fun same => lost.1 (same.trans lost.2)
      have off : indexCondition new l = false := by rw [indexCondition, lost.2]
      rw [if_pos lost, if_pos ⟨quad, .inl differs⟩, decide_eq_true lost, off, Bool.not_true, Bool.and_false]
    · rw [if_neg lost, decide_eq_false lost, Bool.not_false, Bool.and_true]
      simp only [quad, true_and]
  · rw [if_neg quad, if_neg fun h => quad h.1]

theorem indexCond_spelt (r : ChanSettings) (l : ChanLines) :
    indexCondition r l =
      match r.indexQuadrant with
      | some q => decide (filteredAB l = q ∧ l.z.filtered = r.indexPolarity)
      | none => false := by
  unfold indexCondition
  cases r.indexQuadrant with
  | none => rfl
  | some q => exact decide_eq_decide.mpr and_comm

/-- A slot after sources are lost, by its ARMED snapshot. -/
theorem Slot.onward_lost_of_armed {cause : SnapSource → Option Word} {slot : Slot} {sn : Snapshot} {stale : List Chan}
    {due : Option Tick} (body : slot.body = some sn) (armed : sn.phase = .armed stale due) :
    slot.onward (lostPhase cause unmoved) =
      if (cause sn.source).isSome = true then { slot with body := some { sn with phase := .expired .sourceLost } }
      else slot := by
  rw [Slot.onward_of_armed body armed, lostPhase]
  split
  · rfl
  · rw [unmoved, ← armed, ← body]

/-- Settles O31. -/
theorem tuningChangeKeepsCounts : Obligations.TuningChangeKeepsCounts := by
  unfold Obligations.TuningChangeKeepsCounts
  intro p tagByte c new rest s sent holds tunes
  have ran := (setChannel_runs (rest := rest) new holds).trans
    (storeChannel_of_tuning (s := frameEnded p (0x20 :: rest) s) (structuralDiffers_eq_false.mpr tunes))
  refine ⟨_, exec_answers rfl rfl (by decide) sent ran, ?_, fun d apart => ?_, ?_, fun i => ?_, fun q => ?_,
    tuningChange_only _ _ _⟩
  · rw [tuningChange_chanSettings, if_pos rfl]
  · rw [tuningChange_chanSettings, tuningChange_engine, if_neg (Ne.symm apart), if_neg (Ne.symm apart)]
    exact ⟨rfl, rfl⟩
  · rw [tuningChange_engine, if_pos rfl, Engine.tuned_eq, indexCond_spelt]
    rfl
  · rw [tuningChange_slot]
    show (s.slot i).onward (lostPhase (tuningCause c (s.chanSettings c) new) unmoved) = _
    rcases (s.slot i).armed_or_not with ⟨sn, stale, due, body, armed⟩ | none
    · rw [Slot.onward_lost_of_armed body armed, armedSnap_of_armed body armed, tuningCause]
      dsimp only
      split
      · rfl
      · rfl
    · rw [Slot.onward_of_not_armed none, armedSnap_of_not_armed none]
  · rw [tuningChange_queue]
    exact toldOfLost_eq (fun _ => rfl) rfl _ q _

theorem reconfigureCause_isSome {c : Chan} {new : ChanSettings} {src : SnapSource} :
    (reconfigureCause c new src).isSome = true ↔ src = .index c ∧ (new.mode ≠ .quad ∨ new.indexQuadrant = none) := by
  unfold reconfigureCause
  by_cases here : src = .index c
  · by_cases quad : new.mode = .quad
    · by_cases off : new.indexQuadrant = none <;> simp [here, quad, off]
    · simp [here, quad]
  · simp [here]

/-- Settles O32: each block of the reconfigured channel. -/
theorem structuralChangeReconfigures : Obligations.StructuralChangeReconfigures := by
  unfold Obligations.StructuralChangeReconfigures
  intro p tagByte c new rest s sent holds differs
  have structural : structuralDiffers (s.chanSettings c) new = true := by
    by_contra same
    exact differs (structuralDiffers_eq_false.mp (Bool.eq_false_of_not_eq_true same))
  have ran := (setChannel_runs (rest := rest) new holds).trans
    (storeChannel_of_structural (s := frameEnded p (0x20 :: rest) s) structural)
  have engine : (reconfigure c new (frameEnded p (0x20 :: rest) s)).engine c =
      enterMode new (restartChanLines (s.chanLines c)) (s.engine c) := by
    rw [reconfigure_engine, if_pos rfl]
    rfl
  refine ⟨_, exec_answers rfl rfl (by decide) sent ran, ?_⟩
  rw [engine]
  refine ⟨?_, rfl, rfl, rfl, rfl, rfl, rfl, ?_, ?_, ?_, ?_, fun q => ?_, fun i => ?_, fun q => ?_, fun d apart => ?_,
    reconfigure_only _ _ _⟩
  · rw [reconfigure_chanSettings, if_pos rfl]
  · rw [Bool.eq_iff_iff, enterMode, Bool.and_eq_true, beq_iff_eq, indexCondition_iff, decide_eq_true_iff]
    exact and_congr_right fun _ => and_comm
  · unfold enterMode entryState
    cases new.mode <;> rfl
  · rw [reconfigure_chanLines, if_pos rfl]
    rfl
  · rw [reconfigure_ring, if_pos rfl]
    rfl
  · rw [reconfigure_view, if_pos rfl]
    simp only [View.reconfigured, View.zeroed, windowStateFor, Bool.and_eq_true, beq_iff_eq]
    rfl
  · rw [reconfigure_slot]
    show (s.slot i).onward (lostPhase (reconfigureCause c new) (staled c)) = _
    rcases (s.slot i).armed_or_not with ⟨sn, stale, due, body, armed⟩ | none
    · rw [Slot.onward_of_armed body armed, body]
      dsimp only
      rw [armed]
      dsimp only
      by_cases lost : sn.source = .index c ∧ (new.mode ≠ .quad ∨ new.indexQuadrant = none)
      · rw [if_pos lost, lostPhase, if_pos (reconfigureCause_isSome.mpr lost)]
      · rw [if_neg lost, lostPhase, if_neg fun h => lost (reconfigureCause_isSome.mp h), staled]
        split
        · rfl
        · rw [← armed, ← body]
    · rw [Slot.onward_of_not_armed none]
      split
      · split
        · exact absurd ‹_› (none _ ‹_› _ _)
        · rfl
      · rfl
  · rw [reconfigure_queue]
    exact toldOfLost_eq (fun _ => rfl) rfl _ q _
  · rw [reconfigure_chanSettings, reconfigure_engine, reconfigure_chanLines, reconfigure_ring]
    simp only [reconfigure_view, if_neg (Ne.symm apart)]
    exact ⟨rfl, rfl, rfl, rfl, fun _ => rfl⟩

/-! ### SET_DEVICE (R132) -/

/-- Settles O35. -/
theorem setDeviceActsOnChangedFields : Obligations.SetDeviceActsOnChangedFields := by
  unfold Obligations.SetDeviceActsOnChangedFields
  intro p tagByte new rest s sent holds some_quota most
  have ran : commandBody (.setDevice p rest) (deviceSettingsBytes new) (frameEnded p (0x22 :: rest) s) =
      (storeDevice new (frameEnded p (0x22 :: rest) s), okReply []) := by
    refine (gateDev_of_holder (s := frameEnded p (0x22 :: rest) s) (body := setDeviceBody (deviceSettingsBytes new))
      holds).trans ?_
    simp only [setDeviceBody, deviceSettingsAt_bytes some_quota most]
  refine ⟨_, exec_answers rfl rfl (by decide) sent ran, storeDevice_device _ _, fun r => ?_, fun n => ?_, fun i => ?_,
    fun q => ?_, storeDevice_only _ _⟩
  · rw [storeDevice_claim]
    rfl
  · rw [storeDevice_cap]
    rfl
  · rw [storeDevice_slot]
    show (s.slot i).onward (lostPhase (lineCause s.device new) unmoved) = _
    rcases (s.slot i).armed_or_not with ⟨sn, stale, due, body, armed⟩ | none
    · rw [Slot.onward_lost_of_armed body armed, armedSnap_of_armed body armed]
      cases source : sn.source with
      | line n =>
        by_cases off : tget s.device.capEdge n ≠ .off ∧ tget new.capEdge n = .off
        · simp only [source, lineCause, if_pos off, Option.isSome_some, if_true]
        · simp only [source, lineCause, if_neg off, Option.isSome_none, Bool.false_eq_true, if_false]
      | _ => simp only [source, lineCause, Option.isSome_none, Bool.false_eq_true, if_false]
    · rw [Slot.onward_of_not_armed none, armedSnap_of_not_armed none]
  · rw [storeDevice_queue]
    exact toldOfLost_eq (fun _ => rfl) rfl _ q _

end Sys2Proof.Machine
end

section
/-! PROOFS. The snapshot commands: SNAP_ARM, SNAP_READ and SNAP_DISCARD (O43, O44, O45). -/

namespace Sys2Proof.Machine

open Sys2Proof

/-! ### The checks of SNAP_ARM (R138, R141) -/

section
variable {p : Port} {tagByte : Byte} {pl rest : List Byte} {s : State}

theorem length_of_snapArm (sent : Dispatched p 0x50 tagByte pl rest s) : pl.length = 19 :=
  beq_iff_eq.mp (show (pl.length == 19) = true from sent.accepted)

theorem snapSourceOf_immediate (source : byteAt pl 9 = 0) : snapSourceOf pl s = .ok .immediate := by
  unfold snapSourceOf
  rw [source]
  rfl

theorem snapSourceOf_time (source : byteAt pl 9 = 3) : snapSourceOf pl s = .ok (.time (tickAt pl 11)) := by
  unfold snapSourceOf
  rw [source]
  rfl

theorem snapSourceOf_line {n : CapIdx} (source : byteAt pl 9 = 1) (arg : byteAt pl 10 = byteOf n.val) :
    snapSourceOf pl s = if tget s.device.capEdge n = .off then .error badArgument else .ok (.line n) := by
  simp only [snapSourceOf, source, arg, show (1 : Byte).toNat = 1 from rfl, finOf_byteOf_val (n := 2) (by decide)]

theorem snapSourceOf_line_above (source : byteAt pl 9 = 1) (above : 1 < (byteAt pl 10).toNat) :
    snapSourceOf pl s = .error badArgument := by
  simp only [snapSourceOf, source, show (1 : Byte).toNat = 1 from rfl, finOf_eq_none (n := 2) above]

theorem snapSourceOf_index {c : Chan} (source : byteAt pl 9 = 2) (arg : byteAt pl 10 = byteOf c.val) :
    snapSourceOf pl s = if (s.chanSettings c).mode = .quad ∧ (s.chanSettings c).indexQuadrant ≠ none then .ok (.index c)
      else .error wrongMode := by
  simp only [snapSourceOf, source, arg, show (2 : Byte).toNat = 2 from rfl, finOf_byteOf_val (n := 8) (by decide)]

theorem snapSourceOf_index_above (source : byteAt pl 9 = 2) (above : 7 < (byteAt pl 10).toNat) :
    snapSourceOf pl s = .error badArgument := by
  simp only [snapSourceOf, source, show (2 : Byte).toNat = 2 from rfl, finOf_eq_none (n := 8) above]

theorem snapSourceOf_unknown (above : 3 < (byteAt pl 9).toNat) : snapSourceOf pl s = .error badArgument := by
  unfold snapSourceOf
  dsimp only
  split
  case h_5 => rfl
  all_goals omega

theorem snapArmBody_of_error {r : Reply} (refused : snapArmCheck p pl s = .error r) : snapArmBody p pl s = (s, r) := by
  simp only [snapArmBody, refused]

theorem snapArmCheck_of_source_error {cs : List Chan} {r : Reply} (list : chanListOf pl = some cs)
    (source : snapSourceOf pl s = .error r) : snapArmCheck p pl s = .error r := by
  simp only [snapArmCheck, list, source]

theorem snapArmCheck_of_source {cs : List Chan} {src : SnapSource} (list : chanListOf pl = some cs)
    (source : snapSourceOf pl s = .ok src) :
    snapArmCheck p pl s =
      if s.device.quota.toNat ≤ s.heldCount p then .error (storeRefusal .quota p s)
      else
        match s.lowestFree with
        | none => .error (storeRefusal .storeFull p s)
        | some i => .ok (cs, src, i) := by
  simp only [snapArmCheck, list, source] <;> rfl

theorem lowestFree_eq_none (full : ∀ i, (s.slot i).body ≠ none) : s.lowestFree = none := by
  cases free : s.lowestFree with
  | none => rfl
  | some i => exact absurd (lowestFree_spec.mp free).1 (full i)

end

/-- Settles O44: the checks of SNAP_ARM, one after the other. -/
theorem snapArmRefusals : Obligations.SnapArmRefusals := by
  unfold Obligations.SnapArmRefusals
  intro p tagByte pl rest s sent
  have len := length_of_snapArm sent
  have refuses {r : Reply} (refused : snapArmCheck p pl (frameEnded p (0x50 :: rest) s) = .error r) :
      exec (.snapArm p rest) s = .next (answered p tagByte r.code r.payload (frameEnded p (0x50 :: rest) s)) :=
    exec_answers rfl rfl (by decide) sent (snapArmBody_of_error refused)
  refine ⟨fun unlisted => refuses (r := badArgument) ?_, fun cs lists => ?_⟩
  · have list : chanListOf pl = none := by
      cases read : chanListOf pl with
      | none => rfl
      | some cs => exact absurd ((chanListOf_eq_some len).mp read) (unlisted cs)
    simp only [snapArmCheck, list]
  have list := (chanListOf_eq_some len).mpr lists
  refine ⟨fun bad => refuses (r := badArgument) (snapArmCheck_of_source_error list ?_),
    fun c source arg unable => refuses (r := wrongMode) (snapArmCheck_of_source_error list ?_), fun usable => ?_⟩
  · rcases bad with unknown | ⟨source, above⟩ | ⟨n, source, arg, off⟩ | ⟨source, above⟩
    · exact snapSourceOf_unknown unknown
    · exact snapSourceOf_line_above source above
    · rw [snapSourceOf_line source arg]
      exact if_pos off
    · exact snapSourceOf_index_above source above
  · rw [snapSourceOf_index source arg]
    exact if_neg unable
  · have source : ∃ src, snapSourceOf pl (frameEnded p (0x50 :: rest) s) = .ok src := by
      rcases usable with source | source | ⟨n, source, arg, on⟩ | ⟨c, source, arg, able⟩
      · exact ⟨_, snapSourceOf_immediate source⟩
      · exact ⟨_, snapSourceOf_time source⟩
      · exact ⟨_, (snapSourceOf_line source arg).trans (if_neg on)⟩
      · exact ⟨_, (snapSourceOf_index source arg).trans (if_pos able)⟩
    obtain ⟨src, source⟩ := source
    have checked := snapArmCheck_of_source (p := p) list source
    refine ⟨fun reached => refuses (r := storeRefusal .quota p s) (checked.trans (if_pos reached)),
      fun room full => refuses (r := storeRefusal .storeFull p s) (checked.trans ?_)⟩
    rw [lowestFree_eq_none (s := frameEnded p (0x50 :: rest) s) full]
    exact if_neg (Nat.not_le.mpr room)

/-! ### The arming (R139, R140) -/

theorem atOnce_iff (now : Tick) (src : SnapSource) :
    src.atOnce now = true ↔ src = .immediate ∨ ∃ target, src = .time target ∧ (now - target).toNat < 2 ^ 47 := by
  cases src with
  | immediate => exact iff_of_true rfl (.inl rfl)
  | time target => simp [SnapSource.atOnce, targetPassed]
  | _ => simp [SnapSource.atOnce]

theorem armSnapshot_queue (p q : Port) (cs : List Chan) (src : SnapSource) (limit : Half) (i : SlotIdx) (s : State) :
    (armSnapshot p cs src limit i s).queue q =
      (s.queue q).told (q == p && (armedBy p cs src limit s).late)
        { kind := .snapshotReady, source := .handle i ((s.slot i).generation + 1), time := s.now
          value := 4, aux := 0 } := by
  rw [armSnapshot_eq]
  by_cases now : src.atOnce s.now = true
  · have held : (allocate i (arming p cs src limit s) s).slot i =
        { generation := (s.slot i).generation + 1, body := some (arming p cs src limit s) } := by
      rw [allocate_slot, if_pos rfl]
    have queue : (allocate i (arming p cs src limit s) s).queue q = s.queue q := rfl
    rw [if_pos now, captureSlot_queue, held, Slot.tell_of_armed rfl rfl, queue]
    cases src with
    | immediate =>
      rw [show (armedBy p cs .immediate limit s).late = false from rfl, Bool.and_false]
      rfl
    | time target =>
      have late : (armedBy p cs (.time target) limit s).late = true := by
        rw [armedBy, now]
        rfl
      have value : readyValue (arming p cs (.time target) limit s) = 4 := by
        rw [readyValue]
        exact if_pos late
      have none : ∀ c : Chan, decide (c ∈ ([] : List Chan)) = false := fun c => decide_eq_false List.not_mem_nil
      rw [late, Bool.and_true, Bool.beq_comm]
      simp only [readyNews, value, none, List.filter_false, List.length_nil]
      rfl
    | _ => cases now
  · have late : (armedBy p cs src limit s).late = false := by
      simp only [armedBy, Bool.eq_false_of_not_eq_true now, Bool.false_and]
    rw [if_neg now, late, Bool.and_false]
    rfl

theorem snapArmBody_accepted {p : Port} {pl : List Byte} {s : State} {cs : List Chan} {src : SnapSource} {i : SlotIdx}
    (accepted : snapArmCheck p pl s = .ok (cs, src, i)) :
    snapArmBody p pl s = (armSnapshot p cs src (halfAt pl 17) i s, okReply
      ([byteOf i.val, (s.slot i).generation + 1, if src.atOnce s.now = true then 2 else 1,
        yesNo (armedBy p cs src (halfAt pl 17) s).late] ++ le6 s.now)) := by
  have state : byteOf (SnapPhase.code (armedBy p cs src (halfAt pl 17) s).phase) =
      if src.atOnce s.now = true then 2 else 1 := by
    unfold armedBy
    dsimp only
    split <;> rfl
  simp only [snapArmBody, accepted, armSnapshot_slot, if_true, slotStateCode, state, Option.any_some]

/-- Settles O43. -/
theorem snapArmTakesLowestSlot : Obligations.SnapArmTakesLowestSlot := by
  unfold Obligations.SnapArmTakesLowestSlot
  intro p tagByte pl cs i rest s sent lists room free src usable
  have source : snapSourceOf pl (frameEnded p (0x50 :: rest) s) = .ok src := by
    rcases usable with ⟨source, rfl⟩ | ⟨n, source, rfl, arg, on⟩ | ⟨c, source, rfl, arg, able⟩ | ⟨source, rfl⟩
    · exact snapSourceOf_immediate source
    · exact (snapSourceOf_line source arg).trans (if_neg on)
    · exact (snapSourceOf_index source arg).trans (if_pos able)
    · exact snapSourceOf_time source
  have accepted : snapArmCheck p pl (frameEnded p (0x50 :: rest) s) = .ok (cs, src, i) := by
    rw [snapArmCheck_of_source ((chanListOf_eq_some (length_of_snapArm sent)).mpr lists) source,
      lowestFree_spec.mpr (show LowestFree i (frameEnded p (0x50 :: rest) s) from free)]
    exact if_neg (Nat.not_le.mpr room)
  refine ⟨_, armedBy p cs src (halfAt pl 17) (frameEnded p (0x50 :: rest) s), src.atOnce s.now, _,
    entriesOf_captureEntry (s := frameEnded p (0x50 :: rest) s) (t := s) none [] cs (fun _ => rfl) (fun _ => rfl)
      (fun _ => rfl), atOnce_iff _ _, rfl,
    exec_answers rfl rfl (by decide) sent (snapArmBody_accepted accepted), ?_, fun j apart => ?_, ?_, fun q apart => ?_,
    fun q => ?_, armSnapshot_only _ _ _ _ _ _⟩
  · rw [armSnapshot_slot, if_pos rfl]
    rfl
  · rw [armSnapshot_slot, if_neg (Ne.symm apart)]
    rfl
  · rw [armSnapshot_heldCount, if_pos rfl]
    rfl
  · rw [armSnapshot_heldCount, if_neg (Ne.symm apart)]
    rfl
  · rw [armSnapshot_queue]
    rfl

/-! ### Snapshot records (R205) -/

theorem marks_toNat (state source : Fin 4) (arg : Fin 8) (late : Bool) :
    (byteOf state.val ||| (byteOf source.val <<< 2) ||| (byteOf arg.val <<< 4) ||| (yesNo late <<< 7)).toNat =
      state.val + 4 * source.val + 16 * arg.val + if late then 128 else 0 := by
  revert state source arg late
  decide

theorem chanBit_getLsbD (c d : Chan) : ((1 <<< d.val : Nat) : Byte).getLsbD c.val = decide (c = d) := by
  revert c d
  decide

theorem chanMask_getLsbD (cs : List Chan) (c : Chan) : (chanMask cs).getLsbD c.val = decide (c ∈ cs) := by
  have fold : ∀ m : Byte, (cs.foldl (fun (m : Byte) d => m ||| (1 <<< d.val)) m).getLsbD c.val =
      (m.getLsbD c.val || decide (c ∈ cs)) := by
    induction cs with
    | nil => simp
    | cons d cs ih =>
      intro m
      rw [List.foldl_cons, ih, BitVec.getLsbD_or, chanBit_getLsbD, Bool.or_assoc, ← Bool.decide_or]
      simp only [List.mem_cons]
  simpa [chanMask] using fold 0

theorem entryMarks_toNat (code : Fin 10) (a b z : Level) (stale : Bool) :
    (byteOf code.val ||| (Level.code a <<< 4) ||| (Level.code b <<< 5) ||| (Level.code z <<< 6)
      ||| (yesNo stale <<< 7)).toNat =
      code.val + 16 * levelBit a + 32 * levelBit b + 64 * levelBit z + if stale then 128 else 0 := by
  revert code stale
  cases a <;> cases b <;> cases z <;> decide

theorem entryCode_of_snapEntry (e : SnapEntry) :
    ∃ code : Fin 10, EntryCode e code.val ∧ snapEntryCode e = byteOf code.val := by
  unfold EntryCode snapEntryCode
  cases e.mode with
  | off => exact ⟨0, rfl, rfl⟩
  | quad => cases e.referenced with
    | false => exact ⟨1, rfl, rfl⟩
    | true => exact ⟨2, rfl, rfl⟩
  | tally => exact ⟨3, rfl, rfl⟩
  | span => cases e.noMeasurement with
    | false => cases e.overrange with
      | false => exact ⟨4, rfl, rfl⟩
      | true => exact ⟨5, rfl, rfl⟩
    | true => exact ⟨6, rfl, rfl⟩
  | width => cases e.noMeasurement with
    | false => cases e.overrange with
      | false => exact ⟨7, rfl, rfl⟩
      | true => exact ⟨8, rfl, rfl⟩
    | true => exact ⟨9, rfl, rfl⟩

theorem entryBytes_of_snapEntry (e : SnapEntry) : EntryBytes e (snapEntryBytes e) := by
  obtain ⟨code, spelt, byte⟩ := entryCode_of_snapEntry e
  refine ⟨code.val, _, spelt, entryMarks_toNat code e.levels.a e.levels.b e.levels.z e.staleConfig, ?_⟩
  rw [snapEntryBytes, byte]
  cases e.primary <;> cases e.seq <;> rfl

theorem recordBytes_of_snapRecord (i : SlotIdx) (g : Byte) {sn : Snapshot}
    (waitless : ∀ stale due, sn.phase ≠ .armed stale due) : RecordBytes i g sn (snapRecord i g sn) := by
  obtain ⟨state, code, tail, record, shape⟩ : ∃ (state : Fin 4) (_ : SnapPhase.code sn.phase = state.val)
      (tail : List Byte), snapRecord i g sn = snapHead i g sn ++ tail ∧
      match sn.phase with
      | .armed _ _ => False
      | .captured time es => state.val = 2 ∧
          ∃ entries, List.Forall₂ EntryBytes es entries ∧ tail = le6 time ++ entries.flatten
      | .expired reason => state.val = 3 ∧ tail = [match reason with | .timeout => 1 | .sourceLost => 2] := by
    unfold snapRecord
    cases phase : sn.phase with
    | armed stale due => exact absurd phase (waitless stale due)
    | captured time es =>
      refine ⟨2, rfl, _, List.append_assoc _ _ _, rfl, es.map snapEntryBytes, ?_, rfl⟩
      rw [List.forall₂_map_right_iff, List.forall₂_same]
      exact fun e _ => entryBytes_of_snapEntry e
    | expired reason => exact ⟨3, rfl, _, rfl, rfl, by cases reason <;> rfl⟩
  obtain ⟨source, arg, sourceCode, argCode, named⟩ : ∃ (source : Fin 4) (arg : Fin 8)
      (_ : SnapSource.code sn.source = source.val) (_ : SnapSource.arg sn.source = arg.val),
      match sn.source with
      | .immediate => source.val = 0 ∧ arg.val = 0 ∧ SnapSource.target sn.source = 0
      | .line n => source.val = 1 ∧ arg.val = n.val ∧ SnapSource.target sn.source = 0
      | .index c => source.val = 2 ∧ arg.val = c.val ∧ SnapSource.target sn.source = 0
      | .time t => source.val = 3 ∧ arg.val = 0 ∧ SnapSource.target sn.source = t := by
    cases sn.source with
    | immediate => exact ⟨0, 0, rfl, rfl, rfl, rfl, rfl⟩
    | line n => exact ⟨1, n.castLE (by decide), rfl, rfl, rfl, rfl, rfl⟩
    | index c => exact ⟨2, c, rfl, rfl, rfl, rfl, rfl⟩
    | time t => exact ⟨3, 0, rfl, rfl, rfl, rfl, rfl⟩
  refine ⟨_, chanMask sn.channels, tail, state.val, source.val, arg.val, _, ?_,
    marks_toNat state source arg sn.late, chanMask_getLsbD sn.channels, named, shape⟩
  rw [record, snapHead, code, sourceCode, argCode]

/-! ### Handles (R153, R155) -/

section
variable {p : Port} {i : SlotIdx} {g : Byte} {s : State}

theorem currentHandle_of_own {sn : Snapshot} (body : (s.slot i).body = some sn) (current : (s.slot i).generation = g)
    (own : sn.owner = p) : currentHandle p [byteOf i.val, g] s = .ok (i, sn) := by
  unfold currentHandle
  rw [show byteAt [byteOf i.val, g] 0 = byteOf i.val from rfl, finOf_byteOf_val (by decide)]
  dsimp only
  rw [body]
  dsimp only
  rw [show byteAt [byteOf i.val, g] 1 = g from rfl, if_neg (not_not_intro current), if_neg (not_not_intro own)]

theorem currentHandle_unknown (unknown : (s.slot i).body = none ∨ (s.slot i).generation ≠ g) :
    currentHandle p [byteOf i.val, g] s = .error { code := .unknownSnapshot, payload := [] } := by
  unfold currentHandle
  rw [show byteAt [byteOf i.val, g] 0 = byteOf i.val from rfl, finOf_byteOf_val (by decide)]
  dsimp only
  cases body : (s.slot i).body with
  | none => rfl
  | some sn =>
    have older : (s.slot i).generation ≠ g := unknown.resolve_left (by rw [body]; exact Option.some_ne_none sn)
    exact if_pos older

theorem currentHandle_of_other {sn : Snapshot} (body : (s.slot i).body = some sn) (current : (s.slot i).generation = g)
    (other : sn.owner ≠ p) : currentHandle p [byteOf i.val, g] s = .error { code := .notOwner, payload := [] } := by
  unfold currentHandle
  rw [show byteAt [byteOf i.val, g] 0 = byteOf i.val from rfl, finOf_byteOf_val (by decide)]
  dsimp only
  rw [body]
  dsimp only
  rw [show byteAt [byteOf i.val, g] 1 = g from rfl, if_neg (not_not_intro current), if_pos other]

theorem freeSlot_of_own {sn : Snapshot} (body : (s.slot i).body = some sn) (current : (s.slot i).generation = g)
    (own : sn.owner = p) :
    freeSlot i s = (s.setSlot i { generation := g, body := none }).setHeldCount p (s.heldCount p - 1) := by
  simp only [freeSlot, body, current, own]

theorem snapReadBody_of_armed {sn : Snapshot} {pl : List Byte} (handle : currentHandle p pl s = .ok (i, sn))
    {stale : List Chan} {due : Option Tick} (armed : sn.phase = .armed stale due) :
    snapReadBody p pl s = (s, { code := .notReady, payload := [] }) := by
  simp only [snapReadBody, handle, armed]

theorem snapReadBody_of_record {sn : Snapshot} {pl : List Byte} (handle : currentHandle p pl s = .ok (i, sn))
    (waitless : ∀ stale due, sn.phase ≠ .armed stale due) :
    snapReadBody p pl s = (freeSlot i s, okReply (snapRecord i (s.slot i).generation sn)) := by
  unfold snapReadBody
  rw [handle]
  dsimp only
  split
  · exact absurd ‹_› (waitless _ _)
  · rfl

end

/-- Settles O45: the handle's checks, then the record or the freeing. -/
theorem handlesAreReadAndDiscarded : Obligations.HandlesAreReadAndDiscarded := by
  unfold Obligations.HandlesAreReadAndDiscarded
  intro p tagByte i g rest s
  refine ⟨fun sn body current own => ⟨fun sent => ?_, fun sent => ?_⟩, fun rc refused => ?_⟩
  · have handle : currentHandle p [byteOf i.val, g] (frameEnded p (0x51 :: rest) s) = .ok (i, sn) :=
      currentHandle_of_own body current own
    rcases (s.slot i).armed_or_not with ⟨sn', stale, due, body', armed⟩ | none
    · have same : sn = sn' := Option.some.inj (body.symm.trans body')
      subst same
      rw [armedSnap_of_armed body armed]
      refine ⟨fun free => absurd free (Option.some_ne_none sn), fun _ => ?_⟩
      exact exec_answers rfl rfl (by decide) sent (snapReadBody_of_armed handle armed)
    · rw [armedSnap_of_not_armed none]
      have waitless := none sn body
      refine ⟨fun _ => ⟨_, recordBytes_of_snapRecord i g waitless, ?_⟩, fun ne => absurd rfl ne⟩
      refine exec_answers rfl rfl (by decide) sent ((snapReadBody_of_record handle waitless).trans ?_)
      rw [freeSlot_of_own (s := frameEnded p (0x51 :: rest) s) body current own]
      rw [show ((frameEnded p (0x51 :: rest) s).slot i).generation = g from current]
      rfl
  · have handle : currentHandle p [byteOf i.val, g] (frameEnded p (0x52 :: rest) s) = .ok (i, sn) :=
      currentHandle_of_own body current own
    have state : byteOf (SnapPhase.code sn.phase) =
        match sn.phase with
        | .armed _ _ => 1
        | .captured _ _ => 2
        | .expired _ => 3 := by
      cases sn.phase <;> rfl
    have ran : snapDiscardBody p [byteOf i.val, g] (frameEnded p (0x52 :: rest) s) =
        (freeSlot i (frameEnded p (0x52 :: rest) s), okReply [byteOf (SnapPhase.code sn.phase)]) := by
      simp only [snapDiscardBody, handle]
    rw [freeSlot_of_own (s := frameEnded p (0x52 :: rest) s) body current own, state] at ran
    exact exec_answers rfl rfl (by decide) sent ran
  · have handle (bytes : List Byte) : currentHandle p [byteOf i.val, g] (frameEnded p bytes s) =
        .error { code := rc, payload := [] } := by
      rcases refused with ⟨unknown, rfl⟩ | ⟨⟨sn, body, current, other⟩, rfl⟩
      · exact currentHandle_unknown unknown
      · exact currentHandle_of_other body current other
    refine ⟨fun sent => exec_answers rfl rfl (by decide) sent ?_, fun sent => exec_answers rfl rfl (by decide) sent ?_⟩
    · show snapReadBody p [byteOf i.val, g] _ = _
      simp only [snapReadBody, handle]
    · show snapDiscardBody p [byteOf i.val, g] _ = _
      simp only [snapDiscardBody, handle]

end Sys2Proof.Machine
end

section
/-! PROOFS. Refused arguments and the resets by command (O48, O49, O50). -/

namespace Sys2Proof.Machine

open Sys2Proof

/-! ### Arguments outside their values (R119, R200) -/

theorem modeOf_le {b : Byte} {m : Mode} (h : modeOf b = some m) : b.toNat ≤ 4 := by
  unfold modeOf at h
  split at h
  case h_6 => cases h
  all_goals omega

theorem resolutionOf_le {b : Byte} {r : Resolution} (h : resolutionOf b = some r) : b.toNat ≤ 2 := by
  unfold resolutionOf at h
  split at h
  case h_4 => cases h
  all_goals omega

theorem tallyEdgeOf_le {b : Byte} {e : TallyEdge} (h : tallyEdgeOf b = some e) : b.toNat ≤ 2 := by
  unfold tallyEdgeOf at h
  split at h
  case h_4 => cases h
  all_goals omega

theorem gateOf_le {b : Byte} {g : Gate} (h : gateOf b = some g) : b.toNat ≤ 2 := by
  unfold gateOf at h
  split at h
  case h_4 => cases h
  all_goals omega

theorem spanEdgeOf_le {b : Byte} {e : SpanEdge} (h : spanEdgeOf b = some e) : b.toNat ≤ 1 := by
  unfold spanEdgeOf at h
  split at h
  case h_3 => cases h
  all_goals omega

theorem levelOf_le {b : Byte} {v : Level} (h : levelOf b = some v) : b.toNat ≤ 1 := by
  unfold levelOf at h
  split at h
  case h_3 => cases h
  all_goals omega

theorem quadrantOf_le {b : Byte} {q : Option AB} (h : quadrantOf b = some q) : b.toNat ≤ 4 := by
  unfold quadrantOf at h
  split at h
  case h_6 => cases h
  all_goals omega

theorem capEdgeOf_le {b : Byte} {e : CapEdge} (h : capEdgeOf b = some e) : b.toNat ≤ 3 := by
  unfold capEdgeOf at h
  split at h
  case h_5 => cases h
  all_goals omega

theorem boolOf_le {b : Byte} {v : Bool} (h : boolOf b = some v) : b.toNat ≤ 1 := by
  by_contra above
  rw [boolOf_eq_none (by omega)] at h
  cases h

theorem finOf_lt {n : Nat} {b : Byte} {i : Fin n} (h : finOf n b = some i) : b.toNat < n := by
  by_contra above
  rw [finOf_eq_none (by omega)] at h
  cases h

theorem chanSettingsAt_eq_none {pl : List Byte}
    (bad : 4 < (byteAt pl 1).toNat ∨ 7 < (byteAt pl 2).toNat ∨ 2 < (byteAt pl 3).toNat ∨
      1 < (byteAt pl 4).toNat ∨ 2 < (byteAt pl 5).toNat ∨ 2 < (byteAt pl 6).toNat ∨
      1 < (byteAt pl 7).toNat ∨ 1 < (byteAt pl 8).toNat ∨ 4 < (byteAt pl 9).toNat ∨
      1 < (byteAt pl 10).toNat) : chanSettingsAt pl 1 = none := by
  cases read : chanSettingsAt pl 1 with
  | none => rfl
  | some r =>
    simp only [chanSettingsAt, Option.bind_eq_bind, Option.bind_eq_some_iff] at read
    obtain ⟨_, mode, _, step, _, resolution, _, invert, _, tally, _, gate, _, span, _, level, _, quadrant, _, polarity, -⟩ :=
      read
    have b1 : (byteAt pl 1).toNat ≤ 4 := modeOf_le mode
    have b2 : (byteAt pl 2).toNat < 8 := finOf_lt step
    have b3 : (byteAt pl 3).toNat ≤ 2 := resolutionOf_le resolution
    have b4 : (byteAt pl 4).toNat ≤ 1 := boolOf_le invert
    have b5 : (byteAt pl 5).toNat ≤ 2 := tallyEdgeOf_le tally
    have b6 : (byteAt pl 6).toNat ≤ 2 := gateOf_le gate
    have b7 : (byteAt pl 7).toNat ≤ 1 := spanEdgeOf_le span
    have b8 : (byteAt pl 8).toNat ≤ 1 := levelOf_le level
    have b9 : (byteAt pl 9).toNat ≤ 4 := quadrantOf_le quadrant
    have b10 : (byteAt pl 10).toNat ≤ 1 := levelOf_le polarity
    omega

theorem deviceSettingsAt_eq_none {pl : List Byte}
    (bad : byteAt pl 1 = 0 ∨ 24 < (byteAt pl 1).toNat ∨ 3 < (byteAt pl 2).toNat ∨ 3 < (byteAt pl 3).toNat ∨
      7 < (byteAt pl 4).toNat) : deviceSettingsAt pl 0 = none := by
  cases read : deviceSettingsAt pl 0 with
  | none => rfl
  | some d =>
    unfold deviceSettingsAt at read
    dsimp only at read
    split at read
    · rename_i quota
      simp only [Option.bind_eq_bind, Option.bind_eq_some_iff] at read
      obtain ⟨_, first, _, second, _, step, -⟩ := read
      have b2 : (byteAt pl 2).toNat ≤ 3 := capEdgeOf_le first
      have b3 : (byteAt pl 3).toNat ≤ 3 := capEdgeOf_le second
      have b4 : (byteAt pl 4).toNat < 8 := finOf_lt step
      have b1 : 1 ≤ (byteAt pl 1).toNat ∧ (byteAt pl 1).toNat ≤ 24 := quota
      rcases bad with zero | bad
      · rw [zero] at b1
        exact absurd b1.1 (by decide)
      · omega
    · cases read

theorem viewSettingsOf_eq_none {pl : List Byte}
    (bad : 1 < (byteAt pl 7).toNat ∨ (wordAt pl 12).toInt < (wordAt pl 8).toInt ∨ 127 < (byteAt pl 16).toNat) :
    viewSettingsOf pl = none := by
  unfold viewSettingsOf
  dsimp only
  split
  · rename_i on enable
    have := boolOf_le enable
    refine if_pos ?_
    rw [BitVec.slt_iff_toInt_lt]
    omega
  · rfl

theorem max_refused {b : Byte} (bad : b = 0 ∨ 4 < b.toNat) : ¬ (1 ≤ b.toNat ∧ b.toNat ≤ 4) := by
  rcases bad with rfl | above
  · decide
  · omega

section
variable {p : Port} {pl : List Byte} {s : State}

theorem withChannel_refused (above : 7 < (byteAt pl 0).toNat) (body : Chan → State → State × Reply) :
    withChannel pl body s = (s, badArgument) := by
  unfold withChannel
  rw [finOf_eq_none above]

theorem withChannel_refuses {body : Chan → State → State × Reply} (refused : ∀ c, body c s = (s, badArgument)) :
    withChannel pl body s = (s, badArgument) := by
  unfold withChannel
  split
  · rfl
  · exact refused _

theorem claimBody_refuses (bad : 8 < (byteAt pl 0).toNat ∨ 1 < (byteAt pl 1).toNat) :
    claimBody p pl s = (s, badArgument) := by
  unfold claimBody
  rcases bad with above | outside
  · rw [finOf_eq_none above]
  · rw [boolOf_eq_none outside]
    cases finOf 9 (byteAt pl 0) <;> rfl

theorem releaseBody_refuses (above : 8 < (byteAt pl 0).toNat) : releaseBody p pl s = (s, badArgument) := by
  unfold releaseBody
  rw [finOf_eq_none above]

theorem currentHandle_refuses (above : 23 < (byteAt pl 0).toNat) : currentHandle p pl s = .error badArgument := by
  unfold currentHandle
  rw [finOf_eq_none above]

end

/-- Settles O48: the argument check of each command. -/
theorem badArgumentsAreRefused : Obligations.BadArgumentsAreRefused := by
  unfold Obligations.BadArgumentsAreRefused
  intro i p code tagByte pl rest s bad sent
  have refuses (wf : i.wellFormed = true) (ends : frameOf i = some (p, code :: rest)) (command : code ≠ 0)
      (ran : commandBody i pl (frameEnded p (code :: rest) s) = (frameEnded p (code :: rest) s, badArgument)) :
      exec i s = .next (answered p tagByte .badArgument [] (frameEnded p (code :: rest) s)) :=
    exec_answers wf ends command sent ran
  rcases bad with ⟨row, above⟩ | ⟨rfl, rfl, max⟩ | ⟨rfl, rfl, view⟩ | ⟨rfl, rfl, max⟩ | ⟨rfl, rfl, kinds⟩ |
    ⟨rfl, rfl, args⟩ | ⟨rfl, rfl, above⟩ | ⟨row, above⟩ | ⟨c, rfl, rfl, head, holds, field⟩ | ⟨rfl, rfl, holds, field⟩
  · rcases row with ⟨rfl, rfl⟩ | ⟨rfl, rfl⟩ | ⟨rfl, rfl⟩ | ⟨rfl, rfl⟩ | ⟨rfl, rfl⟩ | ⟨rfl, rfl⟩
    all_goals exact refuses rfl rfl (by decide) (withChannel_refused above _)
  · exact refuses rfl rfl (by decide) (withChannel_refuses fun c => if_neg (max_refused max))
  · refine refuses rfl rfl (by decide) (withChannel_refuses fun c => ?_)
    simp only [setViewBody, viewSettingsOf_eq_none view]
  · exact refuses rfl rfl (by decide) (if_neg (max_refused max))
  · exact refuses rfl rfl (by decide) (if_neg (Nat.not_lt.mpr kinds))
  · exact refuses rfl rfl (by decide) (claimBody_refuses args)
  · exact refuses rfl rfl (by decide) (releaseBody_refuses above)
  · rcases row with ⟨rfl, rfl⟩ | ⟨rfl, rfl⟩
    · refine refuses rfl rfl (by decide) ?_
      show snapReadBody p pl _ = _
      simp only [snapReadBody, currentHandle_refuses above]
    · refine refuses rfl rfl (by decide) ?_
      show snapDiscardBody p pl _ = _
      simp only [snapDiscardBody, currentHandle_refuses above]
  · refine refuses rfl rfl (by decide) ((gateChannel_of_holder (pl := pl) (body := setChannelBody pl)
      (s := frameEnded p (0x20 :: rest) s) head holds).trans ?_)
    simp only [setChannelBody, chanSettingsAt_eq_none field]
  · refine refuses rfl rfl (by decide) ((gateDev_of_holder (body := setDeviceBody pl)
      (s := frameEnded p (0x22 :: rest) s) holds).trans ?_)
    simp only [setDeviceBody, deviceSettingsAt_eq_none field]

/-! ### DEVICE_RESET (R195) -/

theorem deviceResetBody_port (p q : Port) (s : State) :
    (deviceResetBody p s).1.port q = if q = p then resetIssuer (s.port q) else resetOtherPort (s.port q) := by
  simp [deviceResetBody, settleLines, resetBlocks, State.port]

/-- Only its conditioners and ports are not those of `resetBlocks`. -/
theorem deviceResetBody_blocks (p : Port) (s : State) :
    SameExcept [.phase, .lines, .caps, .ports] (resetBlocks s) (deviceResetBody p s).1 := by
  intro f hf
  cases f <;> first | rfl | exact absurd (by decide) hf

theorem place_port (p q : Port) (tag : BitVec 4) (r : Reply) (s : State) :
    (place p tag r s).port q =
      if p = q then { s.port q with slot := some { code := r.code, tag := tag, payload := r.payload } }
      else s.port q := by
  unfold place
  rw [State.port_setPort]
  split
  · rename_i here
    rw [here]
  · rfl

theorem frameEnded_port (p q : Port) (bytes : List Byte) (s : State) :
    (frameEnded p bytes s).port q = if p = q then endFramePort bytes (s.port q) else s.port q := by
  unfold frameEnded
  rw [State.port_setPort]
  split
  · rename_i here
    rw [here]
  · rfl

/-- Settles O50: the blocks of a reset, RESET_DONE in the issuer's slot, and no lease left to renew. -/
theorem deviceResetResetsEveryBlock : Obligations.DeviceResetResetsEveryBlock := by
  unfold Obligations.DeviceResetResetsEveryBlock
  intro p tagByte rest s sent holds
  let fe := frameEnded p (0x71 :: rest) s
  let t := place p (tagByte.setWidth 4) { code := .resetDone, payload := [] } (deviceResetBody p fe).1
  have ran : commandBody (.deviceReset p rest) [] fe = deviceResetBody p fe := gateDev_of_holder holds
  have placed : SameExcept [.ports] (deviceResetBody p fe).1 t := place_only _ _ _ _
  have blocks : BlocksReset t :=
    blocksReset_of_resetBlocks ((deviceResetBody_blocks p fe).trans (placed.mono (by decide)))
  have answers : answered p tagByte .resetDone [] (deviceResetBody p fe).1 = t :=
    activity_of_no_holdings p t fun r => by
      obtain ⟨-, -, -, free, -⟩ := blocks
      rw [free r]
      exact fun held => nomatch held
  have issuer : t.port p =
      { resetIssuer (endFramePort (0x71 :: rest) (s.port p)) with
        slot := some { code := .resetDone, tag := tagByte.setWidth 4, payload := [] } } := by
    rw [place_port, if_pos rfl, deviceResetBody_port, if_pos rfl, frameEnded_port, if_pos rfl]
  have others : ∀ q, q ≠ p → t.port q = resetOtherPort (s.port q) := fun q other => by
    rw [place_port, if_neg other.symm, deviceResetBody_port, if_neg other, frameEnded_port, if_neg other.symm]
  refine ⟨t, (exec_answers rfl rfl (by decide) sent ran).trans (congrArg _ answers), blocks, fun c => ?_, fun n => ?_,
    ?_, ?_, ?_, ?_, fun q other => ?_, fun q => ?_, rfl, rfl, rfl, rfl, rfl, rfl⟩
  · rw [placed.chanLines_eq (by decide)]
    exact deviceResetBody_chanLines p fe c
  · rw [placed.cap_eq (by decide)]
    exact deviceResetBody_cap p fe n
  · rw [issuer]
  · rw [issuer]; rfl
  · rw [issuer]; rfl
  · rw [issuer]; rfl
  · rw [others q other]
    exact ⟨rfl, rfl, rfl, rfl⟩
  · apply sdoLevel_of_not_receiving
    by_cases here : q = p
    · rw [here, issuer]
      exact fun receiving => nomatch receiving
    · rw [others q here]
      exact resetOtherPort_recv _

/-! ### PORT_RESET (R73, R94, R114, R134, R158, R176, R194) -/

theorem pass_intLevel (r : Resource) (cause : Word) (former q : Port) (s : State)
    (other : (s.claim r).waiters.head? ≠ some q) : (pass r cause former s).intLevel q = s.intLevel q := by
  unfold pass
  dsimp only
  cases hw : (s.claim r).waiters with
  | nil => rfl
  | cons w ws =>
    have apart : w ≠ q := fun here => other (by rw [hw, here]; rfl)
    dsimp only
    rw [handNotice_intLevel, if_neg fun told => apart told.1]
    rfl

/-- A claim after the first step of a PORT_RESET: the port's own resource passes (R114). -/
def Claim.dropped (p : Port) (lease : Option Tick) (cl : Claim) : Claim :=
  if cl.holder = some p then
    { holder := cl.waiters.head?, waiters := cl.waiters.tail, leaseDue := if cl.waiters = [] then none else lease }
  else cl

section
variable (p : Port) (r : Resource) (s : State)

theorem dropHolding_claim (k : Resource) :
    (dropHolding p r s).claim k = if r = k then (s.claim k).dropped p s.newLease else s.claim k := by
  unfold dropHolding Claim.dropped
  by_cases here : r = k
  · subst here
    rw [if_pos rfl]
    split
    · exact pass_claim_self _ _ _ _
    · rfl
  · rw [if_neg here]
    split
    · exact pass_claim_of_ne _ _ _ _ (Ne.symm here)
    · rfl

theorem dropHolding_newLease : (dropHolding p r s).newLease = s.newLease :=
  (dropHolding_only p r s).newLease_eq (by decide) (by decide)

theorem dropHolding_queue (q : Port) :
    (dropHolding p r s).queue q =
      (s.queue q).told ((s.claim r).holder == some p && (s.claim r).waiters.head? == some q)
        { kind := .claimGranted, source := .resource r, time := s.now, value := 3, aux := BitVec.ofNat 32 p.val } := by
  unfold dropHolding
  split
  · rename_i holds
    rw [pass_queue, beq_iff_eq.mpr holds, Bool.true_and]
  · rename_i other
    rw [beq_eq_false_iff_ne.mpr other, Bool.false_and]
    rfl

theorem dropHolding_intLevel (q : Port)
    (other : (s.claim r).holder = some p → (s.claim r).waiters.head? ≠ some q) :
    (dropHolding p r s).intLevel q = s.intLevel q := by
  unfold dropHolding
  split
  · exact pass_intLevel r 3 p q s (other ‹_›)
  · rfl

theorem dropWaiting_claim (k : Resource) :
    (dropWaiting p r s).claim k =
      if r = k then { s.claim k with waiters := (s.claim k).waiters.filter (fun q => q != p) } else s.claim k := by
  unfold dropWaiting
  dsimp only
  rw [State.claim_setClaim]
  by_cases here : r = k
  · subst here; rfl
  · rw [if_neg here, if_neg here]

theorem dropSlot_slot (i j : SlotIdx) :
    (dropSlot p i s).slot j =
      if i = j then if ownedBy p (s.slot j) then { s.slot j with body := none } else s.slot j else s.slot j := by
  unfold dropSlot
  by_cases here : i = j
  · subst here
    rw [if_pos rfl]
    split
    · rw [freeSlot_slot, if_pos rfl]
    · rfl
  · rw [if_neg here]
    split
    · rw [freeSlot_slot, if_neg here]
    · rfl

end

/-- The resources that a port drops, in their order: each tells its oldest waiter (R114). -/
theorem forResources_dropHolding (p q : Port) (s : State) :
    (forResources (dropHolding p) s).queue q =
      (List.finRange 9).foldl (fun n r =>
        n.told ((s.claim r).holder == some p && (s.claim r).waiters.head? == some q)
          { kind := .claimGranted, source := .resource r, time := s.now, value := 3,
            aux := BitVec.ofNat 32 p.val }) (s.queue q) ∧
    ((∀ r, (s.claim r).holder = some p → (s.claim r).waiters.head? ≠ some q) →
      (forResources (dropHolding p) s).intLevel q = s.intLevel q) := by
  have general : ∀ (rs : List Resource) (u : State), rs.Nodup → u.now = s.now → (∀ r ∈ rs, u.claim r = s.claim r) →
      (rs.foldl (fun u r => dropHolding p r u) u).queue q =
        rs.foldl (fun n r =>
          n.told ((s.claim r).holder == some p && (s.claim r).waiters.head? == some q)
            { kind := .claimGranted, source := .resource r, time := s.now, value := 3,
              aux := BitVec.ofNat 32 p.val }) (u.queue q) ∧
      ((∀ r, (s.claim r).holder = some p → (s.claim r).waiters.head? ≠ some q) →
        (rs.foldl (fun u r => dropHolding p r u) u).intLevel q = u.intLevel q) := by
    intro rs
    induction rs with
    | nil => exact fun u _ _ _ => ⟨rfl, fun _ => rfl⟩
    | cons r rs ih =>
      intro u nodup now claims
      obtain ⟨new, nodup⟩ := List.nodup_cons.mp nodup
      have own : u.claim r = s.claim r := claims r List.mem_cons_self
      obtain ⟨queue, level⟩ := ih (dropHolding p r u) nodup ((dropHolding_only p r u .now (by decide)).trans now)
        fun k mem => by
          have apart : r ≠ k := fun here => new (here.symm ▸ mem)
          rw [dropHolding_claim, if_neg apart]
          exact claims k (List.mem_cons_of_mem r mem)
      refine ⟨?_, fun silent => ?_⟩
      · rw [List.foldl_cons, queue, List.foldl_cons, dropHolding_queue, own, now]
      · rw [List.foldl_cons, level silent, dropHolding_intLevel]
        rw [own]
        exact silent r
  exact general _ s (List.nodup_finRange 9) rfl fun _ _ => rfl

/-- The claims after both steps of the claim table's part (R114). -/
theorem droppedClaims (p : Port) (r : Resource) (s : State) :
    (forResources (dropWaiting p) (forResources (dropHolding p) s)).claim r =
      { (s.claim r).dropped p s.newLease with
        waiters := ((s.claim r).dropped p s.newLease).waiters.filter (fun q => q != p) } := by
  have passed : (forResources (dropHolding p) s).claim r = (s.claim r).dropped p s.newLease :=
    foldl_table (get := State.claim) (read := State.newLease) (F := fun lease _ cl => cl.dropped p lease)
      (fun i j s => dropHolding_claim p i s j) (fun i s => dropHolding_newLease p i s) r s
  have left := foldl_table (get := State.claim) (f := dropWaiting p) (read := fun _ => ())
    (F := fun _ _ cl => { cl with waiters := cl.waiters.filter (fun q => q != p) })
    (fun i j s => dropWaiting_claim p i s j) (fun _ _ => rfl) r (forResources (dropHolding p) s)
  exact left.trans (by rw [passed])

theorem forSlots_dropSlot_slot (p : Port) (i : SlotIdx) (s : State) :
    (forSlots (dropSlot p) s).slot i = if ownedBy p (s.slot i) then { s.slot i with body := none } else s.slot i :=
  foldl_table (get := State.slot) (f := dropSlot p) (read := fun _ => ())
    (F := fun _ _ slot => if ownedBy p slot then { slot with body := none } else slot)
    (fun i j s => dropSlot_slot p s i j) (fun _ _ => rfl) i s

section
variable (p : Port) (pl : List Byte) (s : State)

theorem portResetBody_claim (r : Resource) (inv : ClaimInv s) :
    (portResetBody p pl s).1.claim r =
      if (s.claim r).holder = some p then
        { holder := (s.claim r).waiters.head?
          waiters := (s.claim r).waiters.tail
          leaseDue := if (s.claim r).waiters = [] then none else s.newLease }
      else { s.claim r with waiters := (s.claim r).waiters.filter (fun q => q != p) } := by
  have after : SameExcept [.slots, .held, .views, .queues, .wake, .intLine]
      (forResources (dropWaiting p) (forResources (dropHolding p) s)) (portResetBody p pl s).1 :=
    (((SameExcept.forSlots (dropSlot_only p) _).mono (by decide)).trans
      ((SameExcept.forChans (dropView_only p) _).mono (by decide))).trans ((dropQueue_only p _).mono (by decide))
  rw [after.claim_eq (by decide), droppedClaims]
  unfold Claim.dropped
  by_cases holds : (s.claim r).holder = some p
  · obtain ⟨-, apart, -, -⟩ := inv r
    have absent : ∀ q ∈ (s.claim r).waiters.tail, (q != p) = true := fun q mem =>
      bne_iff_ne.mpr fun here => apart p holds (here ▸ List.mem_of_mem_tail mem)
    rw [if_pos holds, if_pos holds]
    dsimp only
    rw [List.filter_eq_self.mpr absent]
  · rw [if_neg holds, if_neg holds]

theorem portResetBody_slot (i : SlotIdx) :
    (portResetBody p pl s).1.slot i =
      if ownedBy p (s.slot i) then { s.slot i with body := none } else s.slot i := by
  have before : SameExcept [.claims, .queues, .intLine] s
      (forResources (dropWaiting p) (forResources (dropHolding p) s)) :=
    (SameExcept.forResources (dropHolding_only p) _).trans
      ((SameExcept.forResources (dropWaiting_only p) _).mono (by decide))
  show (dropQueue p (forChans (dropView p) _)).slot i = _
  rw [(dropQueue_only p _).slot_eq (by decide), (SameExcept.forChans (dropView_only p) _).slot_eq (by decide),
    forSlots_dropSlot_slot, before.slot_eq (by decide)]

theorem portResetBody_heldInv (inv : HeldInv s) : HeldInv (portResetBody p pl s).1 :=
  portResetBody_keeps (fun h slots held _ _ => heldInv_of_only h slots held) (fun i _ => freeSlot_keeps_heldInv i) p pl inv

theorem portResetBody_owned (q : Port) (i : SlotIdx) :
    ownedBy q ((portResetBody p pl s).1.slot i) = (ownedBy q (s.slot i) && q != p) := by
  rw [portResetBody_slot]
  unfold ownedBy
  cases body : (s.slot i).body with
  | none => simp [body]
  | some sn =>
    by_cases own : sn.owner = p
    · by_cases here : q = p
      · simp [own, here]
      · simp [own, here, Ne.symm here]
    · by_cases here : q = p
      · simp [own, here, body]
      · simp [own, here, body]

theorem portResetBody_heldCount (inv : HeldInv s) (q : Port) :
    (portResetBody p pl s).1.heldCount q = if q = p then 0 else s.heldCount q := by
  rw [portResetBody_heldInv p pl s inv q]
  split
  · rename_i here
    simp [State.ownedCount, State.slotsOf, portResetBody_owned, here]
  · rename_i other
    rw [inv q]
    exact ownedCount_eq_of_owners fun i => by rw [portResetBody_owned, bne_iff_ne.mpr other, Bool.and_true]

/-- The notices of the port itself go last, and of another port only the passes tell. -/
theorem portResetBody_told (q : Port) :
    (portResetBody p pl s).1.queue q =
        (if p = q then Queue.reset else (forResources (dropHolding p) s).queue q) ∧
      (portResetBody p pl s).1.wakeSet q = (if p = q then 0xFFF else s.wakeSet q) ∧
      (portResetBody p pl s).1.intLevel q =
        if p = q then .high else (forResources (dropHolding p) s).intLevel q := by
  have between : SameExcept [.claims, .slots, .held, .views] (forResources (dropHolding p) s)
      (forChans (dropView p) (forSlots (dropSlot p) (forResources (dropWaiting p) (forResources (dropHolding p) s)))) :=
    (((SameExcept.forResources (dropWaiting_only p) _).mono (by decide)).trans
      ((SameExcept.forSlots (dropSlot_only p) _).mono (by decide))).trans
      ((SameExcept.forChans (dropView_only p) _).mono (by decide))
  have wake := (SameExcept.forResources (dropHolding_only p) s).wakeSet_eq (by decide) q
  have cleared (u : State) :
      (dropQueue p u).queue q = (if p = q then Queue.reset else u.queue q) ∧
        (dropQueue p u).wakeSet q = (if p = q then 0xFFF else u.wakeSet q) ∧
        (dropQueue p u).intLevel q = if p = q then .high else u.intLevel q :=
    ⟨State.queue_setQueue _ _ _ _, State.wakeSet_setWakeSet _ _ _ _, State.intLevel_setIntLevel _ _ _ _⟩
  obtain ⟨queue, wakes, level⟩ := cleared
    (forChans (dropView p) (forSlots (dropSlot p) (forResources (dropWaiting p) (forResources (dropHolding p) s))))
  rw [between.queue_eq (by decide)] at queue
  rw [between.wakeSet_eq (by decide), wake] at wakes
  rw [between.intLevel_eq (by decide)] at level
  exact ⟨queue, wakes, level⟩

end

/-- Settles O49: each block's part of the reset, after the frame's end, which the parts do not see. -/
theorem portResetClearsOwnContext : Obligations.PortResetClearsOwnContext := by
  unfold Obligations.PortResetClearsOwnContext
  intro p tagByte rest s sent held claims
  let fe := frameEnded p (0x70 :: rest) s
  have heldHere : HeldInv fe := held
  have claimsHere : ClaimInv fe := claims
  refine ⟨(portResetBody p [] fe).1, _, _, _, exec_answers rfl rfl (by decide) sent rfl, rfl, rfl, (held p).symm,
    fun r => portResetBody_claim p [] fe r claimsHere, fun i => ?_, ?_, fun c => ?_, ?_, ?_, ?_, fun q other => ?_,
    portResetBody_only p [] fe⟩
  · rw [portResetBody_slot, show fe.slot i = s.slot i from rfl]
    unfold ownedBy
    cases body : (s.slot i).body with
    | none => rfl
    | some sn =>
      by_cases own : sn.owner = p
      · simp [own]
      · simp [own]
  · rw [portResetBody_heldCount p [] fe heldHere, if_pos rfl]
  · rw [portResetBody_view, if_pos rfl]
    rfl
  · rw [(portResetBody_told p [] fe p).1, if_pos rfl]
  · rw [(portResetBody_told p [] fe p).2.1, if_pos rfl]
  · rw [(portResetBody_told p [] fe p).2.2, if_pos rfl]
  · obtain ⟨queue, wake, level⟩ := portResetBody_told p [] fe q
    obtain ⟨told, silent⟩ := forResources_dropHolding p q fe
    rw [if_neg other.symm] at queue wake level
    refine ⟨?_, fun c => ?_, wake, queue.trans told, fun apart => level.trans (silent apart)⟩
    · rw [portResetBody_heldCount p [] fe heldHere, if_neg other]
      rfl
    · rw [portResetBody_view, if_neg other.symm]
      rfl

end Sys2Proof.Machine
end
